-- ==== Sys2Proof/Word.lean ====
section
/-! DEFINITION. The word types of the block (`00_scope.md` R10): bytes and 16-bit fields, all unsigned. -/

namespace Sys2Proof

/-- `u8` of `00_scope.md` R10. -/
abbrev Byte := BitVec 8

/-- `u16` of `00_scope.md` R10. -/
abbrev Half := BitVec 16

end Sys2Proof
end

