-- ==== Sys2Proof/Syntax.lean ====
section
/-! DEFINITION. The names of the block: frame kinds, decoder states, records, events, and the ONE inductive `Instr`
with a constructor for every row of `spec/opcode_table.json`; and the external operations an environment issues. -/

namespace Sys2Proof

/-- The three kinds a frame can be accumulated as (`10_state.md` R22: `Unrecognized` is never stored). -/
inductive Kind where
  | measurement
  | health
  | manufacturerInfo
deriving DecidableEq, Repr

/-- The kinds of a short frame, the only operands of PASS (`43_publish.md` R185). -/
inductive ShortKind where
  | health
  | manufacturerInfo
deriving DecidableEq, Repr

/-- `FrameKind` of `10_state.md` R22: the classification of a kind byte. -/
inductive FrameKind where
  | measurement
  | health
  | manufacturerInfo
  | unrecognized
deriving DecidableEq, Repr

/-- `DecoderState` of `10_state.md` R21; `accumulating` takes a three-valued kind (R22, C5, U16). -/
inductive DecoderState where
  | awaitHeader
  | awaitKind
  | accumulating (k : Kind)
deriving DecidableEq, Repr

/-- `Point` of `10_state.md` R28. -/
structure Point where
  distance : Half
  intensity : Byte
deriving DecidableEq, Repr

/-- `MeasurementRecord` of `10_state.md` R27, in wire order. -/
structure MeasurementRecord where
  header : Byte
  verLen : Byte
  speed : Half
  startAngle : Half
  points : Vector Point 12
  endAngle : Half
  timestamp : Half
  crc : Byte
deriving DecidableEq, Repr

/-- Format S, the 12-byte short frame of `30_encoding.md` R83; the nine bytes at offsets 2 to 10 are not interpreted. -/
structure ShortFrame where
  header : Byte
  marker : Byte
  body : Vector Byte 9
  crc : Byte
deriving DecidableEq, Repr

/-- The opaque token of a consumer's callback (`10_state.md` R30); the block never inspects it. -/
structure HandlerId where
  token : Nat
deriving DecidableEq, Repr

/-- `Event` of `40_frame_sync.md` R110; `FrameReady(Unrecognized)` is never emitted (`10_state.md` R22). -/
inductive Event where
  | none
  | frameReady (k : Kind)
deriving DecidableEq, Repr

/-- The byte array operand `B` of VALIDATE, CRC8, GET8, GET16LE and DECODE: inside the block always the FrameBuffer
(`41_checksum.md` R140), as a function any array given by its bytes. -/
inductive ByteArg where
  | buffer
  | bytes (bs : List Byte)
deriving DecidableEq, Repr

/-- The eleven micro-operations of `30_encoding.md` R88. -/
inductive MicroOp where
  | sync
  | skip
  | kindM
  | kindH
  | kindI
  | abandon
  | ovf
  | acc
  | finM
  | finH
  | finI
deriving DecidableEq, Repr

/-- One constructor per row of `spec/opcode_table.json`. -/
inductive Instr where
  -- external operations (`30_encoding.md` R87)
  | reset
  | feed (b : Byte)
  | latest
  | register (h : HandlerId)
  -- micro-operations of FEED (`30_encoding.md` R88)
  | sync (b : Byte)
  | skip (b : Byte)
  | kindM (b : Byte)
  | kindH (b : Byte)
  | kindI (b : Byte)
  | abandon (b : Byte)
  | ovf (b : Byte)
  | acc (b : Byte)
  | finM (b : Byte)
  | finH (b : Byte)
  | finI (b : Byte)
  -- functions inside a completing FEED (`30_encoding.md` R90)
  | validate (B : ByteArg) (n : Nat)
  | crc8Upd (c d : Byte)
  | crc8 (B : ByteArg) (lo : Nat) (hi : Int)
  | get8 (B : ByteArg) (a : Nat)
  | get16le (B : ByteArg) (a : Nat)
  | decode (B : ByteArg)
  | step (e : Event)
  | publish (r : MeasurementRecord)
  | notify (r : MeasurementRecord)
  | pass (k : ShortKind)
  -- frame formats (`30_encoding.md` R82, R83)
  | frameM (r : MeasurementRecord)
  | frameH (f : ShortFrame)
  | frameI (f : ShortFrame)
deriving DecidableEq, Repr

/-- What an environment issues: the four external operations of `00_scope.md` R12, and the pseudo-operation
`feed XX YY ZZ …` of `30_encoding.md` R96, which is those FEEDs one after another. -/
inductive Op where
  | reset
  | feed (b : Byte)
  | latest
  | register (h : HandlerId)
  | feeds (bs : List Byte)
deriving DecidableEq, Repr

end Sys2Proof
end

