-- ==== Sys2Proof/Config.lean ====
section
/-! DEFINITION. The implementation parameters of `00_scope.md` R8, the default configuration, and which configurations are
admissible (R8, R9; D19, U11, U12). -/

namespace Sys2Proof

/-- Points per Measurement frame (`00_scope.md` R8); fixed by the layout of the record (`10_state.md` R27). -/
def nPoints : Nat := 12

/-- Bytes per point (`00_scope.md` R8). -/
def pointSize : Nat := 3

/-- Total bytes of format M, fixed by the layout: `12 × 3 + 11` (`00_scope.md` R9, `30_encoding.md` R82). -/
def formatMBytes : Nat := nPoints * pointSize + 11

/-- Total bytes of format S (`30_encoding.md` R83). -/
def formatSBytes : Nat := 12

/-- The parameters of `00_scope.md` R8. They are fixed for a machine: no operation writes them (`10_state.md` R34). -/
structure Config where
  header : Byte
  measMarker : Byte
  healthMarker : Byte
  manufMarker : Byte
  lenMeas : Nat
  lenHealth : Nat
  lenManuf : Nat
  cap : Nat
  crcTable : Vector Byte 256
  crcInit : Byte
  dropcntW : Nat
deriving DecidableEq, Repr

/-- The entries of the default `CRC_TABLE`, row by row as `41_checksum.md` R143 prints them.
PRESUMED: the spec itself marks the table as general knowledge (D6, G3). Log entry 2. -/
def defaultCrcRows : List Byte :=
  [0x00, 0x4D, 0x9A, 0xD7, 0x79, 0x34, 0xE3, 0xAE, 0xF2, 0xBF, 0x68, 0x25, 0x8B, 0xC6, 0x11, 0x5C] ++
  [0xA9, 0xE4, 0x33, 0x7E, 0xD0, 0x9D, 0x4A, 0x07, 0x5B, 0x16, 0xC1, 0x8C, 0x22, 0x6F, 0xB8, 0xF5] ++
  [0x1F, 0x52, 0x85, 0xC8, 0x66, 0x2B, 0xFC, 0xB1, 0xED, 0xA0, 0x77, 0x3A, 0x94, 0xD9, 0x0E, 0x43] ++
  [0xB6, 0xFB, 0x2C, 0x61, 0xCF, 0x82, 0x55, 0x18, 0x44, 0x09, 0xDE, 0x93, 0x3D, 0x70, 0xA7, 0xEA] ++
  [0x3E, 0x73, 0xA4, 0xE9, 0x47, 0x0A, 0xDD, 0x90, 0xCC, 0x81, 0x56, 0x1B, 0xB5, 0xF8, 0x2F, 0x62] ++
  [0x97, 0xDA, 0x0D, 0x40, 0xEE, 0xA3, 0x74, 0x39, 0x65, 0x28, 0xFF, 0xB2, 0x1C, 0x51, 0x86, 0xCB] ++
  [0x21, 0x6C, 0xBB, 0xF6, 0x58, 0x15, 0xC2, 0x8F, 0xD3, 0x9E, 0x49, 0x04, 0xAA, 0xE7, 0x30, 0x7D] ++
  [0x88, 0xC5, 0x12, 0x5F, 0xF1, 0xBC, 0x6B, 0x26, 0x7A, 0x37, 0xE0, 0xAD, 0x03, 0x4E, 0x99, 0xD4] ++
  [0x7C, 0x31, 0xE6, 0xAB, 0x05, 0x48, 0x9F, 0xD2, 0x8E, 0xC3, 0x14, 0x59, 0xF7, 0xBA, 0x6D, 0x20] ++
  [0xD5, 0x98, 0x4F, 0x02, 0xAC, 0xE1, 0x36, 0x7B, 0x27, 0x6A, 0xBD, 0xF0, 0x5E, 0x13, 0xC4, 0x89] ++
  [0x63, 0x2E, 0xF9, 0xB4, 0x1A, 0x57, 0x80, 0xCD, 0x91, 0xDC, 0x0B, 0x46, 0xE8, 0xA5, 0x72, 0x3F] ++
  [0xCA, 0x87, 0x50, 0x1D, 0xB3, 0xFE, 0x29, 0x64, 0x38, 0x75, 0xA2, 0xEF, 0x41, 0x0C, 0xDB, 0x96] ++
  [0x42, 0x0F, 0xD8, 0x95, 0x3B, 0x76, 0xA1, 0xEC, 0xB0, 0xFD, 0x2A, 0x67, 0xC9, 0x84, 0x53, 0x1E] ++
  [0xEB, 0xA6, 0x71, 0x3C, 0x92, 0xDF, 0x08, 0x45, 0x19, 0x54, 0x83, 0xCE, 0x60, 0x2D, 0xFA, 0xB7] ++
  [0x5D, 0x10, 0xC7, 0x8A, 0x24, 0x69, 0xBE, 0xF3, 0xAF, 0xE2, 0x35, 0x78, 0xD6, 0x9B, 0x4C, 0x01] ++
  [0xF4, 0xB9, 0x6E, 0x23, 0x8D, 0xC0, 0x17, 0x5A, 0x06, 0x4B, 0x9C, 0xD1, 0x7F, 0x32, 0xE5, 0xA8]

/-- The default configuration (`00_scope.md` R8). HEALTH_MARKER, MANUF_MARKER and CRC_TABLE are OPEN in the source and
PRESUMED here with the spec's defaults (D4, D5, D6; log entry 2); CAP and DROPCNT_W are the spec's choice (D3, D11; log entry 3). -/
def Config.default : Config where
  header := 0x54
  measMarker := 0x2C
  healthMarker := 0xE0
  manufMarker := 0x0F
  lenMeas := 47
  lenHealth := 12
  lenManuf := 12
  cap := 128
  crcTable := ⟨defaultCrcRows.toArray, by decide +kernel⟩
  crcInit := 0
  dropcntW := 16

/-- The three markers are pairwise distinct (`00_scope.md` R8, D19); one of them may equal HEADER (U11). -/
abbrev Config.markersDistinct (c : Config) : Prop :=
  c.measMarker ≠ c.healthMarker ∧ c.healthMarker ≠ c.manufMarker ∧ c.manufMarker ≠ c.measMarker

/-- Every frame length is above 2 and at most the capacity (`00_scope.md` R9, U12). -/
abbrev Config.lengthsFit (c : Config) : Prop :=
  (2 < c.lenMeas ∧ c.lenMeas ≤ c.cap) ∧ (2 < c.lenHealth ∧ c.lenHealth ≤ c.cap) ∧
    (2 < c.lenManuf ∧ c.lenManuf ≤ c.cap)

/-- An admissible configuration (`00_scope.md` R8, R9; D3 for `CAP ≥ 128`); every other one is refused (log entry 12). -/
abbrev Config.wf (c : Config) : Prop :=
  c.markersDistinct ∧ c.lengthsFit ∧ 128 ≤ c.cap

end Sys2Proof
end

