-- ==== Sys2Proof/WellFormed.lean ====
section
/-! DEFINITION. Which terms of `Instr` are instructions of the block under a configuration: the operand conditions of each
row's rule. What depends on the state (`st`, `cur`) is selection, `Decode.lean`. -/

namespace Sys2Proof

/-- Offsets `0 … n-1` exist in the array: below CAP for the FrameBuffer (`20_memory.md` R50), inside a given array. -/
def ByteArg.covers (c : Config) (n : Nat) : ByteArg → Bool
  | .buffer => decide (n ≤ c.cap)
  | .bytes bs => decide (n ≤ bs.length)

/-- The operand conditions of every row (`30_encoding.md` R88 for the micro-operations, R82 and R83 for the frames,
`41_checksum.md` R140 and R142, `42_record_decode.md` R160 to R162). -/
def Instr.wf (c : Config) : Instr → Bool
  | .reset => true
  | .feed _ => true
  | .latest => true
  | .register _ => true
  | .sync b => decide (b = c.header)
  | .skip b => decide (b ≠ c.header)
  | .kindM b => decide (b = c.measMarker)
  | .kindH b => decide (b ≠ c.measMarker ∧ b = c.healthMarker)
  | .kindI b => decide (b ≠ c.measMarker ∧ b ≠ c.healthMarker ∧ b = c.manufMarker)
  | .abandon b => decide (b ≠ c.measMarker ∧ b ≠ c.healthMarker ∧ b ≠ c.manufMarker)
  | .ovf _ => true
  | .acc _ => true
  | .finM _ => true
  | .finH _ => true
  | .finI _ => true
  | .validate B n => decide (1 ≤ n) && B.covers c n
  | .crc8Upd _ _ => true
  | .crc8 B lo hi => decide (hi < lo) || B.covers c (hi + 1).toNat
  | .get8 B a => B.covers c (a + 1)
  | .get16le B a => B.covers c (a + 2)
  | .decode B => B.covers c formatMBytes
  | .step _ => true
  | .publish _ => true
  | .notify _ => true
  | .pass _ => true
  | .frameM r => decide (c.lenMeas = formatMBytes ∧ r.header = c.header ∧ r.verLen = c.measMarker)
  | .frameH f => decide (c.lenHealth = formatSBytes ∧ f.header = c.header ∧ f.marker ≠ c.measMarker ∧ f.marker = c.healthMarker)
  | .frameI f => decide (c.lenManuf = formatSBytes ∧ f.header = c.header ∧ f.marker ≠ c.measMarker ∧ f.marker ≠ c.healthMarker ∧
      f.marker = c.manufMarker)

end Sys2Proof
end

