-- ==== Sys2Proof/Decode.lean ====
section
/-! DEFINITION. The encodings: byte order, frame layout both ways, the selection table of the micro-operations
(`30_encoding.md` R88) written as tests and as the rows of `opcode_table.json`, the decoder of an input byte and of a frame,
and the encoder. -/

namespace Sys2Proof

/-! ## Kinds, markers, lengths -/

/-- `LEN(k)` (`40_frame_sync.md` R123). -/
def Config.lenOf (c : Config) : Kind → Nat
  | .measurement => c.lenMeas
  | .health => c.lenHealth
  | .manufacturerInfo => c.lenManuf

/-- The kind marker of `k` (`00_scope.md` R8). -/
def Config.markerOf (c : Config) : Kind → Byte
  | .measurement => c.measMarker
  | .health => c.healthMarker
  | .manufacturerInfo => c.manufMarker

/-- Classification of a kind byte, tests in the source's order (`30_encoding.md` R85, R89, R91). -/
def classify (c : Config) (b : Byte) : FrameKind :=
  if b = c.measMarker then .measurement
  else if b = c.healthMarker then .health
  else if b = c.manufMarker then .manufacturerInfo
  else .unrecognized

/-- A short kind as the kind it is. -/
def ShortKind.kind : ShortKind → Kind
  | .health => .health
  | .manufacturerInfo => .manufacturerInfo

/-! ## Field assembly (`20_memory.md` R53, `30_encoding.md` R86) -/

/-- A 16-bit field from its low byte (lower offset) and its high byte: `lo + 256 × hi`. -/
def le16 (lo hi : Byte) : Half := hi ++ lo

/-- The byte at the lower offset of a 16-bit field, `v mod 256` (`20_memory.md` R54). -/
def loByte (v : Half) : Byte := v.extractLsb' 0 8

/-- The byte at the higher offset of a 16-bit field, `v div 256` (`20_memory.md` R54). -/
def hiByte (v : Half) : Byte := v.extractLsb' 8 8

/-- Point `i` of a frame whose byte at offset `x` is `B x`: distance at `6 + 3i`, intensity at `8 + 3i` (`20_memory.md` R57). -/
def pointOf (B : Nat → Byte) (i : Nat) : Point where
  distance := le16 (B (6 + 3 * i)) (B (7 + 3 * i))
  intensity := B (8 + 3 * i)

/-- The fixed-offset extraction of `42_record_decode.md` R162 from a frame whose byte at offset `x` is `B x`. -/
def recordOf (B : Nat → Byte) : MeasurementRecord where
  header := B 0
  verLen := B 1
  speed := le16 (B 2) (B 3)
  startAngle := le16 (B 4) (B 5)
  points := Vector.ofFn fun i => pointOf B i.val
  endAngle := le16 (B 42) (B 43)
  timestamp := le16 (B 44) (B 45)
  crc := B 46

/-- The three bytes of a point in wire order. -/
def Point.toBytes (p : Point) : List Byte := [loByte p.distance, hiByte p.distance, p.intensity]

/-- The 47 bytes of format M (`30_encoding.md` R82), the serializer `frameM` of R96 but for computing the checksum. -/
def MeasurementRecord.toBytes (r : MeasurementRecord) : List Byte :=
  [r.header, r.verLen, loByte r.speed, hiByte r.speed, loByte r.startAngle, hiByte r.startAngle] ++
    r.points.toList.flatMap Point.toBytes ++
    [loByte r.endAngle, hiByte r.endAngle, loByte r.timestamp, hiByte r.timestamp, r.crc]

/-- The short frame whose byte at offset `x` is `B x` (`20_memory.md` R58). -/
def shortOf (B : Nat → Byte) : ShortFrame where
  header := B 0
  marker := B 1
  body := Vector.ofFn fun i => B (2 + i.val)
  crc := B 11

/-- The 12 bytes of format S (`30_encoding.md` R83). -/
def ShortFrame.toBytes (f : ShortFrame) : List Byte :=
  [f.header, f.marker] ++ f.body.toList ++ [f.crc]

/-- A given list of bytes read by offset. Beyond its end it gives 0; every use below has tested the length first. -/
def byteAt (bs : List Byte) (x : Nat) : Byte := bs.getD x 0

/-! ## Selection of the micro-operation (`30_encoding.md` R88) -/

/-- The FIN micro-operation of a kind. -/
def finOf : Kind → MicroOp
  | .measurement => .finM
  | .health => .finH
  | .manufacturerInfo => .finI

/-- `30_encoding.md` R88, tests in the order listed. `none`: no row applies, the case `cur + 1 > LEN(k)` which R88 says cannot
occur. -/
def select (c : Config) (st : DecoderState) (cur : Nat) (b : Byte) : Option MicroOp :=
  match st with
  | .awaitHeader => if b = c.header then some .sync else some .skip
  | .awaitKind =>
    match classify c b with
    | .measurement => some .kindM
    | .health => some .kindH
    | .manufacturerInfo => some .kindI
    | .unrecognized => some .abandon
  | .accumulating k =>
    if c.cap ≤ cur then some .ovf
    else if cur + 1 < c.lenOf k then some .acc
    else if cur + 1 = c.lenOf k then some (finOf k)
    else none

/-- The micro-operation as an instruction on the input byte. -/
def MicroOp.instr (u : MicroOp) (b : Byte) : Instr :=
  match u with
  | .sync => .sync b
  | .skip => .skip b
  | .kindM => .kindM b
  | .kindH => .kindH b
  | .kindI => .kindI b
  | .abandon => .abandon b
  | .ovf => .ovf b
  | .acc => .acc b
  | .finM => .finM b
  | .finH => .finH b
  | .finI => .finI b

/-! ## The rows of `opcode_table.json` (`30_encoding.md` R97) -/

/-- The `"state"` of a micro-operation row. -/
inductive RowState where
  | awaitHeader
  | awaitKind
  | accumulatingAny
  | accumulating (k : Kind)
deriving DecidableEq, Repr

/-- The `"match"` of a row: a parameter's value, or 0 in an otherwise row. -/
inductive RowMatch where
  | zero
  | header
  | marker (k : Kind)
deriving DecidableEq, Repr

/-- The `"cursor"` condition of a row. -/
inductive RowCursor where
  | any
  | full
  | more
  | last
deriving DecidableEq, Repr

/-- A micro-operation row. -/
structure MicroRow where
  op : MicroOp
  state : RowState
  mtch : RowMatch
  mask : Byte
  priority : Nat
  cursor : RowCursor
deriving DecidableEq, Repr

/-- The eleven rows, in the table's order. -/
def microRows : List MicroRow :=
  [⟨.sync, .awaitHeader, .header, 0xFF, 0, .any⟩, ⟨.skip, .awaitHeader, .zero, 0x00, 1, .any⟩,
   ⟨.kindM, .awaitKind, .marker .measurement, 0xFF, 0, .any⟩, ⟨.kindH, .awaitKind, .marker .health, 0xFF, 1, .any⟩] ++
  [⟨.kindI, .awaitKind, .marker .manufacturerInfo, 0xFF, 2, .any⟩, ⟨.abandon, .awaitKind, .zero, 0x00, 3, .any⟩,
   ⟨.ovf, .accumulatingAny, .zero, 0x00, 0, .full⟩, ⟨.acc, .accumulatingAny, .zero, 0x00, 1, .more⟩] ++
  [⟨.finM, .accumulating .measurement, .zero, 0x00, 2, .last⟩, ⟨.finH, .accumulating .health, .zero, 0x00, 2, .last⟩,
   ⟨.finI, .accumulating .manufacturerInfo, .zero, 0x00, 2, .last⟩]

/-- Does the row's `"state"` cover `st`? -/
def RowState.covers (rs : RowState) (st : DecoderState) : Bool :=
  match rs, st with
  | .awaitHeader, .awaitHeader => true
  | .awaitKind, .awaitKind => true
  | .accumulatingAny, .accumulating _ => true
  | .accumulating k, .accumulating k' => decide (k = k')
  | _, _ => false

/-- The row's match value under a configuration. -/
def RowMatch.value (c : Config) : RowMatch → Byte
  | .zero => 0
  | .header => c.header
  | .marker k => c.markerOf k

/-- Does the row's `"cursor"` condition hold? -/
def RowCursor.holds (c : Config) (st : DecoderState) (cur : Nat) (rc : RowCursor) : Bool :=
  match rc, st with
  | .any, _ => true
  | .full, _ => decide (c.cap ≤ cur)
  | .more, .accumulating k => decide (cur < c.cap ∧ cur + 1 < c.lenOf k)
  | .last, .accumulating k => decide (cur < c.cap ∧ cur + 1 = c.lenOf k)
  | .more, _ => false
  | .last, _ => false

/-- A row applies when its state and cursor conditions hold and `(b AND mask) = match` (R97). -/
def MicroRow.applies (c : Config) (st : DecoderState) (cur : Nat) (b : Byte) (row : MicroRow) : Bool :=
  row.state.covers st && row.cursor.holds c st cur && decide (b &&& row.mask = row.mtch.value c)

/-- Of a list of rows, the one tested first: the lower `"priority"` number is tested first (R97). -/
def firstByPriority : List MicroRow → Option MicroRow
  | [] => none
  | row :: rows =>
    match firstByPriority rows with
    | none => some row
    | some other => if other.priority < row.priority then some other else some row

/-- Selection read from the table's rows: of the rows that apply, the one with the lowest priority number. -/
def selectByRows (c : Config) (st : DecoderState) (cur : Nat) (b : Byte) : Option MicroOp :=
  (firstByPriority (microRows.filter fun row => row.applies c st cur b)).map MicroRow.op

/-! ## The decoders, total on any bytes -/

/-- Why bytes are not an instruction. -/
inductive Reject where
  /-- No row of `30_encoding.md` R88 applies. -/
  | noRow
  /-- Fewer bytes than the format has. -/
  | tooShort
  /-- Byte 0 is not HEADER. -/
  | notHeader
  /-- Byte 1 is none of the markers (`30_encoding.md` R91). -/
  | unrecognizedKind
  /-- The configured length of the kind is not the length of its format (`30_encoding.md` R82, R83). -/
  | notTheFormat
deriving DecidableEq, Repr

/-- Decode one input byte in the sequencing state (`st`, `cur`): `30_encoding.md` R88. -/
def decodeByte (c : Config) (st : DecoderState) (cur : Nat) (b : Byte) : Except Reject Instr :=
  match select c st cur b with
  | some u => .ok (u.instr b)
  | none => .error .noRow

/-- Decode the frame that begins a list of bytes, and give what follows it (`30_encoding.md` R81 to R85). -/
def decodeFrame (c : Config) (bs : List Byte) : Except Reject (Instr × List Byte) :=
  match bs with
  | [] => .error .tooShort
  | [h] => if h = c.header then .error .tooShort else .error .notHeader
  | h :: m :: _ =>
    if h ≠ c.header then .error .notHeader
    else
      match classify c m with
      | .measurement =>
        if c.lenMeas ≠ formatMBytes then .error .notTheFormat
        else if bs.length < formatMBytes then .error .tooShort
        else .ok (.frameM (recordOf (byteAt bs)), bs.drop formatMBytes)
      | .health =>
        if c.lenHealth ≠ formatSBytes then .error .notTheFormat
        else if bs.length < formatSBytes then .error .tooShort
        else .ok (.frameH (shortOf (byteAt bs)), bs.drop formatSBytes)
      | .manufacturerInfo =>
        if c.lenManuf ≠ formatSBytes then .error .notTheFormat
        else if bs.length < formatSBytes then .error .tooShort
        else .ok (.frameI (shortOf (byteAt bs)), bs.drop formatSBytes)
      | .unrecognized => .error .unrecognizedKind

/-! ## The encoder -/

/-- The bytes of an instruction: one input byte for a micro-operation, the whole frame for a frame format. `none`: the row has
no bit pattern (external operations and functions, `30_encoding.md` R87, R97). -/
def encode : Instr → Option (List Byte)
  | .reset => none
  | .feed _ => none
  | .latest => none
  | .register _ => none
  | .sync b => some [b]
  | .skip b => some [b]
  | .kindM b => some [b]
  | .kindH b => some [b]
  | .kindI b => some [b]
  | .abandon b => some [b]
  | .ovf b => some [b]
  | .acc b => some [b]
  | .finM b => some [b]
  | .finH b => some [b]
  | .finI b => some [b]
  | .validate _ _ => none
  | .crc8Upd _ _ => none
  | .crc8 _ _ _ => none
  | .get8 _ _ => none
  | .get16le _ _ => none
  | .decode _ => none
  | .step _ => none
  | .publish _ => none
  | .notify _ => none
  | .pass _ => none
  | .frameM r => some r.toBytes
  | .frameH f => some f.toBytes
  | .frameI f => some f.toBytes

/-! ## Words numbered as the table numbers them -/

/-- The bytes of an `nbits`-bit table word, bits 7:0 first (`30_encoding.md` R97). -/
def tableBytes (nbits w : Nat) : List Byte :=
  (List.range (nbits / 8)).map fun i => BitVec.ofNat 8 (w / 256 ^ i)

/-- The row of an 8-bit word taken without a state: the rows that fix the byte come before the otherwise rows, and of those
SKIP is the table's first (DESIGN CHOICE, log entry 15). -/
def decodeLoneByte (c : Config) (b : Byte) : Instr :=
  if b = c.header then .sync b
  else
    match classify c b with
    | .measurement => .kindM b
    | .health => .kindH b
    | .manufacturerInfo => .kindI b
    | .unrecognized => .skip b

/-- `decodeTableWord` under any configuration: 8 bits are one input byte; more bits are the first bytes of a frame whose further
bytes are 0. -/
def decodeTableWordIn (c : Config) (nbits w : Nat) : Option Instr :=
  if nbits = 8 then some (decodeLoneByte c (BitVec.ofNat 8 w))
  else if 16 ≤ nbits ∧ nbits % 8 = 0 then
    match decodeFrame c (tableBytes nbits w ++ List.replicate formatMBytes 0) with
    | .ok (i, _) => some i
    | .error _ => none
  else none

/-- The instruction of a table word under the default configuration. Rows of width 0 have no word (`30_encoding.md` R97). -/
def decodeTableWord (nbits w : Nat) : Option Instr := decodeTableWordIn Config.default nbits w

end Sys2Proof
end

