-- ==== Sys2Proof/Machine/State.lean ====
section
/-! DEFINITION. The state of the decoder (`10_state.md` R20) with its parameters and its environment's operations and outputs,
what a step can stop with, and the state after reset (R37). -/

namespace Sys2Proof.Machine

/-- Why the machine stops with a fault. Every fault is safe: the model stops where the spec gives no value, and no reachable
state of the block meets the first, second and fourth. -/
inductive Fault where
  /-- A read of a FrameBuffer cell that holds no value: never appended to, or at or above `cur` since the last SYNC
  (`93_implementation_defined.md` U7, `10_state.md` R38). Raised by every read of the buffer. Safe. Log entry 5. -/
  | unwrittenCell (a : Nat)
  /-- A read or an append at an offset that does not exist, `CAP` or above (`10_state.md` R25). Raised by reads of the buffer
  and by appends. Safe. Log entry 6. -/
  | outsideBuffer (a : Nat)
  /-- A read past the end of an array given by its bytes. Raised by the functions with a byte array operand. Safe. Log entry 14. -/
  | outsideArray (a : Nat)
  /-- FEED in a state for which `30_encoding.md` R88 has no row (`cur + 1 > LEN(k)`, "cannot occur"). Raised by FEED. Safe.
  Log entry 11. -/
  | noMicroOperation
deriving DecidableEq, Repr

/-- Why the machine refuses. Every refusal is safe. -/
inductive Refusal where
  /-- The instruction has no meaning yet. Raised by `exec`'s arms only. Safe. -/
  | notModelled (mnemonic : String)
  /-- The configuration is outside `00_scope.md` R8 and R9: "a configuration that violates this is refused by the model"
  (D19, U11, U12). Raised by `step` before anything runs. Safe. Log entry 12. -/
  | illFormedConfig
  /-- A micro-operation issued where `30_encoding.md` R88 does not select it. Raised by the eleven micro-operations when they
  are executed on their own; FEED never raises it. Safe. Log entry 10. -/
  | notSelected (u : MicroOp)
  /-- VALIDATE with length 0, outside its domain (D26, U15). Raised by VALIDATE. Safe. Log entry 13. -/
  | validateLengthZero
  /-- `in_valid` and `reg_set` strobed together: REGISTER must not run concurrently with FEED (`60_exceptions.md` R215, U2).
  Raised by the port view. Safe. Log entry 18. -/
  | clashingStrobes
deriving DecidableEq, Repr

/-- Causes of errors, the labels of `60_exceptions.md` R206; diagnostic, not state. -/
inductive Cause where
  /-- FE.HDR, R201. -/
  | headerMismatch
  /-- FE.KIND, R202. -/
  | unrecognizedKind
  /-- FE.OVF, R203. -/
  | overflow
  /-- CRC.M, CRC.H, CRC.I, R204. -/
  | checksumMismatch (k : Kind)
  /-- XPORT, R205: the byte source failed. No operation raises it; its effect is that no further bytes arrive. -/
  | transport
deriving DecidableEq, Repr

/-- The output of one FEED (`43_publish.md` R187). -/
structure StepReport where
  event : Event
  crcOk : Bool
  passed : Bool
  published : Option MeasurementRecord
  notified : Bool
deriving DecidableEq, Repr

/-- What leaves the block: the report of a FEED (R13, R187), a callback invocation (R182), the answer of LATEST (R183), and,
for a micro-operation or a function run on its own, the value it returns (R95, R140 to R142, R160 to R162, R182). -/
inductive Output where
  | report (r : StepReport)
  | invoked (h : HandlerId) (r : MeasurementRecord)
  | latest (o : Option MeasurementRecord)
  | event (e : Event)
  | flag (v : Bool)
  | byte (v : Byte)
  | half (v : Half)
  | record (r : MeasurementRecord)
deriving DecidableEq, Repr

/-- The FrameBuffer's written cells, (offset, byte), offsets strictly rising; an unlisted offset has no value
(`10_state.md` R38; log entry 5). -/
abbrev Memory := List Host.Cell

/-- The state: `10_state.md` R20, and the parameters (`cfg`), the environment's pending operations (`inp`, oldest first) and the
outputs so far (`out`, newest first), which are no registers of the block (log entries 1, 7, 8). -/
structure State where
  cfg : Config
  st : DecoderState
  buf : Memory
  cur : Nat
  latest : Option MeasurementRecord
  handler : Option HandlerId
  dropcnt : Nat
  inp : List Op
  out : List Output
deriving DecidableEq, Repr

/-- The state after reset (`10_state.md` R37), under the default configuration, with no operation pending. `st` and `latest` are
the source's; `cur`, `handler` and `dropcnt` are the spec's decision D8 (log entry 4). -/
def State.reset : State where
  cfg := Config.default
  st := .awaitHeader
  buf := []
  cur := 0
  latest := none
  handler := none
  dropcnt := 0
  inp := []
  out := []

end Sys2Proof.Machine
end

