-- ==== Sys2Proof/Machine/Ops.lean ====
section
/-! DEFINITION. The operations the meanings share: sequencing, the FrameBuffer's cells, the append, outputs, and the block's
exceptions. -/

namespace Sys2Proof.Machine

/-- The result of an operation that may stop. -/
abbrev Res (α : Type) := Host.Outcome α Fault Refusal

/-- Run `f` on what `o` answers; a fault or a refusal ends the run. -/
def andThen {α β : Type} (o : Res α) (f : α → Res β) : Res β :=
  match o with
  | .next a => f a
  | .fault r => .fault r
  | .refused r => .refused r

/-! ## The FrameBuffer's cells -/

/-- The cell at offset `a`, if it holds a value. -/
def Memory.read : Memory → Nat → Option Byte
  | [], _ => none
  | (x, v) :: m, a => if a = x then some v else Memory.read m a

/-- Write `v` at offset `a`, keeping the offsets strictly rising. -/
def Memory.write : Memory → Nat → Byte → Memory
  | [], a, v => [(a, v)]
  | (x, w) :: m, a, v =>
    if a < x then (a, v) :: (x, w) :: m
    else if a = x then (a, v) :: m
    else (x, w) :: Memory.write m a v

/-- Every listed offset is above `a` and the offsets rise strictly. -/
def Memory.risesFrom : Nat → Memory → Bool
  | _, [] => true
  | a, (x, _) :: m => decide (a < x) && Memory.risesFrom x m

/-- The canonical form: offsets strictly rising. An unlisted offset has no value, so no entry can equal what an unlisted offset
reads as. -/
def Memory.wf : Memory → Bool
  | [] => true
  | (x, _) :: m => Memory.risesFrom x m

/-- `buf[a]` (`00_scope.md` R11). An offset at or above `CAP` does not exist; a cell at or above `cur`, or never appended to, holds
no value (U7). -/
def readCell (s : State) (a : Nat) : Res Byte :=
  if s.cfg.cap ≤ a then .fault (.outsideBuffer a)
  else if s.cur ≤ a then .fault (.unwrittenCell a)
  else
    match s.buf.read a with
    | some v => .next v
    | none => .fault (.unwrittenCell a)

/-- The append of `20_memory.md` R51: `MemWrite(cur, 1, b)` then `cur <- cur + 1`; never at or above `CAP` (`10_state.md` R25). -/
def append (b : Byte) (s : State) : Res State :=
  if s.cur < s.cfg.cap then .next { s with buf := s.buf.write s.cur b, cur := s.cur + 1 }
  else .fault (.outsideBuffer s.cur)

/-! ## Outputs -/

/-- Add an output. -/
def State.emit (s : State) (o : Output) : State := { s with out := o :: s.out }

/-- An operation whose value is the output of the step. -/
def answer {α : Type} (o : Res (State × α)) (f : α → Output) : Res State :=
  andThen o fun p => .next (p.1.emit (f p.2))

/-- A function of the state and its operands that writes nothing and whose value is the output of the step. -/
def answerPure {α : Type} (s : State) (o : Res α) (f : α → Output) : Res State :=
  andThen o fun v => .next (s.emit (f v))

/-! ## Exceptions -/

/-- Taking an exception (`60_exceptions.md` R201 to R205, R207): an error changes at most `st` and `dropcnt`, saves nothing and is
vectored nowhere. FE.HDR changes nothing; FE.KIND and FE.OVF return to AwaitHeader; a checksum mismatch counts; XPORT is no event
of the block. There is no return operation (R208): the state left here is the state in which the next byte is fed, and recovery is
the SYNC of a later header byte. -/
def raise (c : Cause) (s : State) : State :=
  match c with
  | .headerMismatch => s
  | .unrecognizedKind => { s with st := .awaitHeader }
  | .overflow => { s with st := .awaitHeader }
  | .checksumMismatch _ => { s with dropcnt := (s.dropcnt + 1) % 2 ^ s.cfg.dropcntW }
  | .transport => s

end Sys2Proof.Machine
end

