-- ==== Sys2Proof/Machine/Operands.lean ====
section
/-! DEFINITION. The byte array operand: `buf`, or an array given by its bytes; reads of one byte and of a range
(`20_memory.md` R52 to R56). -/

namespace Sys2Proof.Machine

/-- `B[a]`. -/
def readArg (s : State) (B : ByteArg) (a : Nat) : Res Byte :=
  match B with
  | .buffer => readCell s a
  | .bytes bs =>
    match bs[a]? with
    | some v => .next v
    | none => .fault (.outsideArray a)

/-- `B[a], B[a+1], …`, `n` bytes read one at a time in ascending order (`20_memory.md` R52). -/
def readRange (s : State) (B : ByteArg) (a : Nat) : Nat → Res (List Byte)
  | 0 => .next []
  | n + 1 => andThen (readArg s B a) fun v => andThen (readRange s B (a + 1) n) fun vs => .next (v :: vs)

/-- `MemRead(a, 2)`: two byte reads, the low byte first (`20_memory.md` R53, `42_record_decode.md` R161). -/
def readHalf (s : State) (B : ByteArg) (a : Nat) : Res Half :=
  andThen (readArg s B a) fun lo => andThen (readArg s B (a + 1)) fun hi => .next (le16 lo hi)

end Sys2Proof.Machine
end

