-- ==== Sys2Proof/Machine/Flags.lean ====
section
/-! DEFINITION. The verdict of the checksum (`crc_ok`): the table-driven checksum of `41_checksum.md`. -/

namespace Sys2Proof.Machine

/-- `CRC8.UPD(c, d) = T[(c XOR d) & 0xFF]` (`41_checksum.md` R141). -/
def crcUpd (cfg : Config) (c d : Byte) : Byte := cfg.crcTable[((c ^^^ d) &&& 0xFF).toNat]

/-- `CRC8` of a byte sequence (`41_checksum.md` R142): `CRC8.UPD` from CRC_INIT in ascending order. -/
def crcOf (cfg : Config) (bs : List Byte) : Byte := bs.foldl (crcUpd cfg) cfg.crcInit

/-- `CRC8(B, lo, hi)`, both ends inclusive, empty when `hi < lo` (`41_checksum.md` R142). -/
def crcRange (s : State) (B : ByteArg) (lo : Nat) (hi : Int) : Res Byte :=
  andThen (readRange s B lo (hi + 1 - lo).toNat) fun bs => .next (crcOf s.cfg bs)

/-- `VALIDATE(B, n)` (`41_checksum.md` R140); length 0 is outside its domain (D26). -/
def validateArg (s : State) (B : ByteArg) (n : Nat) : Res Bool :=
  if n = 0 then .refused .validateLengthZero
  else
    andThen (crcRange s B 0 ((n : Int) - 2)) fun c =>
      andThen (readArg s B (n - 1)) fun last => .next (decide (c = last))

end Sys2Proof.Machine
end

