-- ==== Sys2Proof/Machine/Checksum.lean ====
section
/-! DEFINITION. ChecksumValidator: VALIDATE, CRC8.UPD, CRC8 (`41_checksum.md`). They write no state (R145); the value is the
output of the step. -/

namespace Sys2Proof.Machine

/-- VALIDATE (`41_checksum.md` R140). -/
def execValidate (B : ByteArg) (n : Nat) (s : State) : Host.Outcome State Fault Refusal :=
  answerPure s (validateArg s B n) .flag

/-- CRC8.UPD (`41_checksum.md` R141). -/
def execCrc8Upd (c d : Byte) (s : State) : Host.Outcome State Fault Refusal :=
  .next (s.emit (.byte (crcUpd s.cfg c d)))

/-- CRC8 (`41_checksum.md` R142). -/
def execCrc8 (B : ByteArg) (lo : Nat) (hi : Int) (s : State) : Host.Outcome State Fault Refusal :=
  answerPure s (crcRange s B lo hi) .byte

end Sys2Proof.Machine
end

