-- ==== Sys2Proof/Machine/FrameSync.lean ====
section
/-! DEFINITION. FrameDecoder: the eleven micro-operations (`40_frame_sync.md` R112 to R122). Each gives the state after it and its
event; run on its own it applies only where `30_encoding.md` R88 selects it. -/

namespace Sys2Proof.Machine

/-- SYNC (`40_frame_sync.md` R112): reset the cursor, append the header byte. -/
def syncOp (b : Byte) (s : State) : Res (State × Event) :=
  andThen (append b { s with cur := 0 }) fun t => .next ({ t with st := .awaitKind }, .none)

/-- SKIP (`40_frame_sync.md` R113): the byte is discarded, FE.HDR. -/
def skipOp (s : State) : Res (State × Event) := .next (raise .headerMismatch s, .none)

/-- The shape of KIND.M, KIND.H and KIND.I (`40_frame_sync.md` R114 to R116): append, then accumulate kind `k`. -/
def kindOp (k : Kind) (b : Byte) (s : State) : Res (State × Event) :=
  andThen (append b s) fun t => .next ({ t with st := .accumulating k }, .none)

/-- ABANDON (`40_frame_sync.md` R117): the append precedes the test; FE.KIND. The byte is not looked at again (D24). -/
def abandonOp (b : Byte) (s : State) : Res (State × Event) :=
  andThen (append b s) fun t => .next (raise .unrecognizedKind t, .none)

/-- ACC (`40_frame_sync.md` R118): any byte is data. -/
def accOp (b : Byte) (s : State) : Res (State × Event) :=
  andThen (append b s) fun t => .next (t, .none)

/-- The shape of FIN.M, FIN.H and FIN.I (`40_frame_sync.md` R119 to R121): append the last byte, return to AwaitHeader, report the
kind; `buf` and `cur` stay (D7). -/
def finOp (k : Kind) (b : Byte) (s : State) : Res (State × Event) :=
  andThen (append b s) fun t => .next ({ t with st := .awaitHeader }, .frameReady k)

/-- OVF (`40_frame_sync.md` R122): the byte is not stored, FE.OVF. -/
def ovfOp (s : State) : Res (State × Event) := .next (raise .overflow s, .none)

/-- The effect of a micro-operation on the input byte. -/
def microOp (u : MicroOp) (b : Byte) (s : State) : Res (State × Event) :=
  match u with
  | .sync => syncOp b s
  | .skip => skipOp s
  | .kindM => kindOp .measurement b s
  | .kindH => kindOp .health b s
  | .kindI => kindOp .manufacturerInfo b s
  | .abandon => abandonOp b s
  | .ovf => ovfOp s
  | .acc => accOp b s
  | .finM => finOp .measurement b s
  | .finH => finOp .health b s
  | .finI => finOp .manufacturerInfo b s

/-- A micro-operation on its own: its event is the output of the step. Where `30_encoding.md` R88 does not select it, it is no
operation of the block and is refused (log entry 10). -/
def runSelected (u : MicroOp) (b : Byte) (s : State) : Host.Outcome State Fault Refusal :=
  if select s.cfg s.st s.cur b = some u then answer (microOp u b s) .event
  else .refused (.notSelected u)

/-- SYNC (`40_frame_sync.md` R112). -/
def execSync (b : Byte) (s : State) : Host.Outcome State Fault Refusal := runSelected .sync b s

/-- SKIP (`40_frame_sync.md` R113). -/
def execSkip (b : Byte) (s : State) : Host.Outcome State Fault Refusal := runSelected .skip b s

/-- KIND.M (`40_frame_sync.md` R114). -/
def execKindM (b : Byte) (s : State) : Host.Outcome State Fault Refusal := runSelected .kindM b s

/-- KIND.H (`40_frame_sync.md` R115). -/
def execKindH (b : Byte) (s : State) : Host.Outcome State Fault Refusal := runSelected .kindH b s

/-- KIND.I (`40_frame_sync.md` R116). -/
def execKindI (b : Byte) (s : State) : Host.Outcome State Fault Refusal := runSelected .kindI b s

/-- ABANDON (`40_frame_sync.md` R117). -/
def execAbandon (b : Byte) (s : State) : Host.Outcome State Fault Refusal := runSelected .abandon b s

/-- OVF (`40_frame_sync.md` R122). -/
def execOvf (b : Byte) (s : State) : Host.Outcome State Fault Refusal := runSelected .ovf b s

/-- ACC (`40_frame_sync.md` R118). -/
def execAcc (b : Byte) (s : State) : Host.Outcome State Fault Refusal := runSelected .acc b s

/-- FIN.M (`40_frame_sync.md` R119). -/
def execFinM (b : Byte) (s : State) : Host.Outcome State Fault Refusal := runSelected .finM b s

/-- FIN.H (`40_frame_sync.md` R120). -/
def execFinH (b : Byte) (s : State) : Host.Outcome State Fault Refusal := runSelected .finH b s

/-- FIN.I (`40_frame_sync.md` R121). -/
def execFinI (b : Byte) (s : State) : Host.Outcome State Fault Refusal := runSelected .finI b s

end Sys2Proof.Machine
end

