-- ==== Sys2Proof/Machine/Record.lean ====
section
/-! DEFINITION. RecordAssembler: GET8, GET16LE, DECODE (`42_record_decode.md`). They write no state; the value is the output of the
step. -/

namespace Sys2Proof.Machine

/-- `DECODE(B)` (`42_record_decode.md` R162): bytes 0 to 46 of `B`, each to one field. -/
def decodeArg (s : State) (B : ByteArg) : Res MeasurementRecord :=
  andThen (readRange s B 0 formatMBytes) fun bs => .next (recordOf (byteAt bs))

/-- GET8 (`42_record_decode.md` R160). -/
def execGet8 (B : ByteArg) (a : Nat) (s : State) : Host.Outcome State Fault Refusal :=
  answerPure s (readArg s B a) .byte

/-- GET16LE (`42_record_decode.md` R161). -/
def execGet16le (B : ByteArg) (a : Nat) (s : State) : Host.Outcome State Fault Refusal :=
  answerPure s (readHalf s B a) .half

/-- DECODE (`42_record_decode.md` R162). -/
def execDecode (B : ByteArg) (s : State) : Host.Outcome State Fault Refusal :=
  answerPure s (decodeArg s B) .record

end Sys2Proof.Machine
end

