-- ==== Sys2Proof/Machine/Publish.lean ====
section
/-! DEFINITION. PacketPublisher and the continuation of a FEED after its event: STEP, PUBLISH, NOTIFY, PASS; and the operations of
the consumer and the host: LATEST, REGISTER, RESET (`43_publish.md`, `70_reset_and_hazards.md` R230). -/

namespace Sys2Proof.Machine

/-- `latest <- some r`, the whole record at once (`43_publish.md` R181). -/
def publish (r : MeasurementRecord) (s : State) : State := { s with latest := some r }

/-- Invoke the registered handler, if any, with the record (`43_publish.md` R182); the value says whether it was invoked. The
callback's body is the consumer's (`00_scope.md` R6 f; log entry 17). -/
def notify (r : MeasurementRecord) (s : State) : State × Bool :=
  match s.handler with
  | none => (s, false)
  | some h => (s.emit (.invoked h r), true)

/-- The report of PASS (`43_publish.md` R185). -/
def passReport (k : ShortKind) : StepReport where
  event := .frameReady k.kind
  crcOk := true
  passed := true
  published := none
  notified := false

/-- The report of a step whose event is None (`43_publish.md` R187). -/
def quietReport : StepReport where
  event := .none
  crcOk := false
  passed := false
  published := none
  notified := false

/-- The report of a frame that failed its checksum (`60_exceptions.md` R204). -/
def mismatchReport (k : Kind) : StepReport where
  event := .frameReady k
  crcOk := false
  passed := false
  published := none
  notified := false

/-- The report of a published record (`43_publish.md` R180). -/
def publishReport (r : MeasurementRecord) (notified : Bool) : StepReport where
  event := .frameReady .measurement
  crcOk := true
  passed := false
  published := some r
  notified := notified

/-- DECODE, PUBLISH, NOTIFY of a valid Measurement frame (`43_publish.md` R180; order of `20_memory.md` R61). -/
def publishFrame (s : State) : Res (State × StepReport) :=
  andThen (decodeArg s .buffer) fun r =>
    .next ((notify r (publish r s)).1, publishReport r (notify r (publish r s)).2)

/-- A frame of kind `k` whose checksum is valid (`43_publish.md` R180). -/
def validFrame (k : Kind) (s : State) : Res (State × StepReport) :=
  match k with
  | .measurement => publishFrame s
  | .health => .next (s, passReport .health)
  | .manufacturerInfo => .next (s, passReport .manufacturerInfo)

/-- What follows the micro-operation in a FEED (`43_publish.md` R180). -/
def afterEvent (e : Event) (s : State) : Res (State × StepReport) :=
  match e with
  | .none => .next (s, quietReport)
  | .frameReady k =>
    andThen (validateArg s .buffer (s.cfg.lenOf k)) fun ok =>
      if ok then validFrame k s else .next (raise (.checksumMismatch k) s, mismatchReport k)

/-- STEP on the event of a micro-operation (`43_publish.md` R180). -/
def execStep (e : Event) (s : State) : Host.Outcome State Fault Refusal :=
  answer (afterEvent e s) .report

/-- PUBLISH (`43_publish.md` R181). -/
def execPublish (r : MeasurementRecord) (s : State) : Host.Outcome State Fault Refusal :=
  .next (publish r s)

/-- NOTIFY (`43_publish.md` R182). -/
def execNotify (r : MeasurementRecord) (s : State) : Host.Outcome State Fault Refusal :=
  answer (.next (notify r s)) .flag

/-- PASS (`43_publish.md` R185): no state change; the report says that a frame of this kind passed. -/
def execPass (k : ShortKind) (s : State) : Host.Outcome State Fault Refusal :=
  .next (s.emit (.report (passReport k)))

/-- LATEST (`43_publish.md` R183): answers the cache and writes nothing. -/
def execLatest (s : State) : Host.Outcome State Fault Refusal :=
  .next (s.emit (.latest s.latest))

/-- REGISTER (`43_publish.md` R184): the newest handler replaces the one before. -/
def execRegister (h : HandlerId) (s : State) : Host.Outcome State Fault Refusal :=
  .next { s with handler := some h }

/-- RESET (`70_reset_and_hazards.md` R230): all but `buf`, whose cells hold no value because `cur` is 0 (log entry 21). -/
def execReset (s : State) : Host.Outcome State Fault Refusal :=
  .next { s with st := .awaitHeader, cur := 0, latest := none, handler := none, dropcnt := 0 }

end Sys2Proof.Machine
end

