-- ==== Sys2Proof/Machine/Feed.lean ====
section
/-! DEFINITION. The complete FEED (`40_frame_sync.md` R110, R111; `43_publish.md` R180) and the frame formats as what the block does
with a whole frame (`30_encoding.md` R82, R83, R96). -/

namespace Sys2Proof.Machine

/-- `FEED(b)` up to its event: exactly one micro-operation, chosen by `30_encoding.md` R88 (`40_frame_sync.md` R111). -/
def feedEvent (b : Byte) (s : State) : Res (State × Event) :=
  match select s.cfg s.st s.cur b with
  | some u => microOp u b s
  | none => .fault .noMicroOperation

/-- FEED, the whole step (`43_publish.md` R180): the micro-operation, then STEP on its event; its output is the step report. -/
def execFeed (b : Byte) (s : State) : Host.Outcome State Fault Refusal :=
  andThen (feedEvent b s) fun p => answer (afterEvent p.2 p.1) .report

/-- Bytes fed one after another, in arrival order (`30_encoding.md` R96, `20_memory.md` R60). -/
def feedAll : List Byte → State → Host.Outcome State Fault Refusal
  | [], s => .next s
  | b :: bs, s => andThen (execFeed b s) fun t => feedAll bs t

/-- FRAME.M: the 47 bytes of a Measurement frame are fed (`30_encoding.md` R82, R96; log entry 16). -/
def execFrameM (r : MeasurementRecord) (s : State) : Host.Outcome State Fault Refusal := feedAll r.toBytes s

/-- FRAME.H: the 12 bytes of a Health frame are fed (`30_encoding.md` R83, R96; log entry 16). -/
def execFrameH (f : ShortFrame) (s : State) : Host.Outcome State Fault Refusal := feedAll f.toBytes s

/-- FRAME.I: the 12 bytes of a ManufacturerInfo frame are fed (`30_encoding.md` R83, R96; log entry 16). -/
def execFrameI (f : ShortFrame) (s : State) : Host.Outcome State Fault Refusal := feedAll f.toBytes s

/-- `frameM(…)` of `30_encoding.md` R96: a record with the checksum the configuration asks for. -/
def withChecksum (c : Config) (r : MeasurementRecord) : MeasurementRecord :=
  { r with crc := crcOf c (r.toBytes.take 46) }

/-- `frameS(…)` of `30_encoding.md` R96: a short frame with the checksum the configuration asks for. -/
def withShortChecksum (c : Config) (f : ShortFrame) : ShortFrame :=
  { f with crc := crcOf c (f.toBytes.take 11) }

/-- `bad(F)` of `30_encoding.md` R96: the frame with its last byte XORed with `0x01`. -/
def badFrame : List Byte → List Byte
  | [] => []
  | [b] => [b ^^^ 0x01]
  | b :: c :: bs => b :: badFrame (c :: bs)

end Sys2Proof.Machine
end

