-- ==== Sys2Proof/Machine/Dispatch.lean ====
section
/-! DEFINITION. One arm per row of `spec/opcode_table.json`. -/

namespace Sys2Proof.Machine

def exec (i : Instr) (s : State) : Host.Outcome State Fault Refusal :=
  match i with
  -- external operations
  | .reset => Sys2Proof.Machine.execReset s
  | .feed b => Sys2Proof.Machine.execFeed b s
  | .latest => Sys2Proof.Machine.execLatest s
  | .register h => Sys2Proof.Machine.execRegister h s
  -- micro-operations
  | .sync b => Sys2Proof.Machine.execSync b s
  | .skip b => Sys2Proof.Machine.execSkip b s
  | .kindM b => Sys2Proof.Machine.execKindM b s
  | .kindH b => Sys2Proof.Machine.execKindH b s
  | .kindI b => Sys2Proof.Machine.execKindI b s
  | .abandon b => Sys2Proof.Machine.execAbandon b s
  | .ovf b => Sys2Proof.Machine.execOvf b s
  | .acc b => Sys2Proof.Machine.execAcc b s
  | .finM b => Sys2Proof.Machine.execFinM b s
  | .finH b => Sys2Proof.Machine.execFinH b s
  | .finI b => Sys2Proof.Machine.execFinI b s
  -- functions
  | .validate B n => Sys2Proof.Machine.execValidate B n s
  | .crc8Upd c d => Sys2Proof.Machine.execCrc8Upd c d s
  | .crc8 B lo hi => Sys2Proof.Machine.execCrc8 B lo hi s
  | .get8 B a => Sys2Proof.Machine.execGet8 B a s
  | .get16le B a => Sys2Proof.Machine.execGet16le B a s
  | .decode B => Sys2Proof.Machine.execDecode B s
  | .step e => Sys2Proof.Machine.execStep e s
  | .publish r => Sys2Proof.Machine.execPublish r s
  | .notify r => Sys2Proof.Machine.execNotify r s
  | .pass k => Sys2Proof.Machine.execPass k s
  -- frame formats
  | .frameM r => Sys2Proof.Machine.execFrameM r s
  | .frameH f => Sys2Proof.Machine.execFrameH f s
  | .frameI f => Sys2Proof.Machine.execFrameI f s

end Sys2Proof.Machine
end

