-- ==== Sys2Proof/Machine/Issue.lean ====
section
/-! DEFINITION. How an operation of the environment comes to run: taking the oldest pending one, running it, and placing an
instruction so that the next step runs it. -/

namespace Sys2Proof.Machine

/-- The oldest pending operation and the state without it. -/
def fetch (s : State) : Option (Op × State) :=
  match s.inp with
  | [] => none
  | o :: rest => some (o, { s with inp := rest })

/-- Run an external operation (`00_scope.md` R12); a burst is its FEEDs one after another (`30_encoding.md` R96; log entry 9). -/
def issue (o : Op) (s : State) : Host.Outcome State Fault Refusal :=
  match o with
  | .reset => exec .reset s
  | .feed b => exec (.feed b) s
  | .latest => exec .latest s
  | .register h => exec (.register h) s
  | .feeds bs => feedAll bs s

/-- One step: an ill-formed configuration is refused (D19, U12); with no operation pending the block holds its state
(`60_exceptions.md` R219; log entry 7); else the oldest operation runs. -/
def stepOnce (s : State) : Host.Outcome State Fault Refusal :=
  if s.cfg.wf then
    match fetch s with
    | none => .next s
    | some (o, t) => issue o t
  else .refused .illFormedConfig

/-- The oldest pending operation becomes `o`. -/
def State.push (s : State) (o : Op) : State := { s with inp := o :: s.inp }

/-- The sequencing state right after a SYNC (`10_state.md` R26: `cur = 1`, `buf[0] = HEADER`). -/
def State.afterSync (s : State) : State :=
  { s with st := .awaitKind, cur := 1, buf := s.buf.write 0 s.cfg.header }

/-- Place an instruction of the table's words where `step` fetches: the sequencing state its row names, and its byte or its frame
as the oldest pending operation (log entry 15). External operations are queued; a body byte is fed in the state as it is;
functions are invoked inside FEED only and cannot be placed. -/
def State.place (s : State) (i : Instr) : State :=
  match i with
  | .reset => s.push .reset
  | .feed b => s.push (.feed b)
  | .latest => s.push .latest
  | .register h => s.push (.register h)
  | .sync b => { s with st := .awaitHeader }.push (.feed b)
  | .skip b => { s with st := .awaitHeader }.push (.feed b)
  | .kindM b => s.afterSync.push (.feed b)
  | .kindH b => s.afterSync.push (.feed b)
  | .kindI b => s.afterSync.push (.feed b)
  | .abandon b => s.afterSync.push (.feed b)
  | .ovf b => s.push (.feed b)
  | .acc b => s.push (.feed b)
  | .finM b => s.push (.feed b)
  | .finH b => s.push (.feed b)
  | .finI b => s.push (.feed b)
  | .validate _ _ => s
  | .crc8Upd _ _ => s
  | .crc8 _ _ _ => s
  | .get8 _ _ => s
  | .get16le _ _ => s
  | .decode _ => s
  | .step _ => s
  | .publish _ => s
  | .notify _ => s
  | .pass _ => s
  | .frameM r => { s with st := .awaitHeader }.push (.feeds r.toBytes)
  | .frameH f => { s with st := .awaitHeader }.push (.feeds f.toBytes)
  | .frameI f => { s with st := .awaitHeader }.push (.feeds f.toBytes)

/-- Place the instruction of a table word, if the word has one. -/
def State.placeWord (s : State) (nbits w : Nat) : State :=
  match decodeTableWordIn s.cfg nbits w with
  | some i => s.place i
  | none => s

end Sys2Proof.Machine
end

