-- ==== Sys2Proof/Machine/Step.lean ====
section
/-! DEFINITION. The step function. -/

namespace Sys2Proof.Machine

/-- One step of the block: the oldest pending external operation, applied atomically (`00_scope.md` R12). -/
def step : State → Host.Outcome State Fault Refusal := stepOnce

/-- The state with an instruction of the opcode table placed so that the very next step runs it (log entry 15). -/
def State.withFetchWord (s : State) (nbits w : Nat) : State := s.placeWord nbits w

end Sys2Proof.Machine
end

