-- ==== Sys2Proof/Machine/Ports.lean ====
section
/-! DEFINITION. The signal-level view of `10_state.md` R36: input strobes as operations, a step's outputs as signals, and the port
encodings of the enumerations (D13, D28). The machine works with the operations; this file only names them as signals. -/

namespace Sys2Proof.Machine

/-- Port encoding of `FrameKind` (`10_state.md` R36). -/
def frameKindCode : FrameKind → BitVec 2
  | .measurement => 0
  | .health => 1
  | .manufacturerInfo => 2
  | .unrecognized => 3

/-- A stored kind as a frame kind. -/
def kindAsFrameKind : Kind → FrameKind
  | .measurement => .measurement
  | .health => .health
  | .manufacturerInfo => .manufacturerInfo

/-- Port encoding of `DecoderState` (`10_state.md` R36): the state, and the separate kind register while accumulating. -/
def decoderStateCode : DecoderState → BitVec 2 × Option (BitVec 2)
  | .awaitHeader => (0, none)
  | .awaitKind => (1, none)
  | .accumulating k => (2, some (frameKindCode (kindAsFrameKind k)))

/-- The input signals of one moment. -/
structure InPorts where
  rst : Bool
  inValid : Bool
  inByte : Byte
  regSet : Bool
  regId : HandlerId
deriving DecidableEq, Repr

/-- The operation the strobes perform, if any. With `rst` every other strobe is dropped (`60_exceptions.md` R210, D2); FEED and
REGISTER together are outside the model (R215, U2; log entry 18). -/
def InPorts.op (p : InPorts) : Res (Option Op) :=
  if p.rst then .next (some .reset)
  else if p.inValid && p.regSet then .refused .clashingStrobes
  else if p.inValid then .next (some (.feed p.inByte))
  else if p.regSet then .next (some (.register p.regId))
  else .next none

/-- Sample the input signals: the operation is queued behind those pending. -/
def State.sample (s : State) (p : InPorts) : Host.Outcome State Fault Refusal :=
  andThen p.op fun o => .next { s with inp := s.inp ++ o.toList }

/-- The output signals after a step whose FEED gave the report, if the step was a FEED (`10_state.md` R36). `rec` is the 376 bits of
`latest`, meaningful only with `recValid`. -/
structure OutPorts where
  inReady : Bool
  evtReady : Bool
  evtKind : BitVec 2
  crcOk : Bool
  passed : Bool
  recNew : Bool
  recValid : Bool
  record : Option MeasurementRecord
  dropcnt : Nat
deriving DecidableEq, Repr

/-- `evt_ready` of an event. -/
def eventReady : Event → Bool
  | .none => false
  | .frameReady _ => true

/-- `evt_kind` of an event; without `evt_ready` the signal means nothing, and 3 (Unrecognized) stands there (log entry 18). -/
def eventKindCode : Event → BitVec 2
  | .none => frameKindCode .unrecognized
  | .frameReady k => frameKindCode (kindAsFrameKind k)

/-- The signals after a FEED with this report; `in_ready` is constantly 1. -/
def outPorts (s : State) (r : StepReport) : OutPorts where
  inReady := true
  evtReady := eventReady r.event
  evtKind := eventKindCode r.event
  crcOk := r.crcOk
  passed := r.passed
  recNew := r.notified
  recValid := s.latest.isSome
  record := s.latest
  dropcnt := s.dropcnt

end Sys2Proof.Machine
end

