-- ==== Sys2Proof/Safety.lean ====
section
/-! DEFINITION. What a safe run is, in the words the statements use: the contexts and their rights, the invariants of the reachable
states, and the outcomes of a run. -/

namespace Sys2Proof.Machine

/-! ## Contexts (`60_exceptions.md` R213) -/

/-- The block's "privilege modes". -/
inductive Context where
  | producer
  | consumer
  | host
deriving DecidableEq, Repr

/-- Who may issue an operation (`60_exceptions.md` R213, R214). -/
def contextOf : Op → Context
  | .reset => .host
  | .feed _ => .producer
  | .latest => .consumer
  | .register _ => .host
  | .feeds _ => .producer

/-! ## Outcomes -/

/-- The run answers a next state. -/
def Completes (o : Host.Outcome State Fault Refusal) : Prop := ∃ t, o = .next t

/-! ## Where a FEED stores -/

/-- The offset the micro-operation stores its byte at, with the cursor it is executed at: SYNC stores at the cursor it has just
reset, SKIP and OVF store nothing, every other one at `cur` (`20_memory.md` R51). -/
def storeOffset (u : MicroOp) (cur : Nat) : Option Nat :=
  match u with
  | .sync => some 0
  | .skip => none
  | .ovf => none
  | .kindM => some cur
  | .kindH => some cur
  | .kindI => some cur
  | .abandon => some cur
  | .acc => some cur
  | .finM => some cur
  | .finH => some cur
  | .finI => some cur

/-- The offset FEED stores its byte at, if it stores. -/
def feedStoreOffset (s : State) (b : Byte) : Option Nat :=
  match select s.cfg s.st s.cur b with
  | some u => storeOffset u s.cur
  | none => none

/-- The first `n` cells hold the bytes `bs`, readable by the block. -/
def State.holds (s : State) (bs : List Byte) : Prop :=
  ∀ i (h : i < bs.length), readCell s i = .next bs[i]

/-! ## Invariants -/

/-- `10_state.md` R26: what `cur` and `buf` are in each decoder state. (OVF, the only way to `cur = CAP`, is unreachable when the
lengths fit.) -/
def SeqInv (s : State) : Prop :=
  match s.st with
  | .awaitHeader => s.cur = 0 ∨ s.cur = 2 ∨ ∃ k, s.cur = s.cfg.lenOf k
  | .awaitKind => s.cur = 1 ∧ s.buf.read 0 = some s.cfg.header
  | .accumulating k =>
    2 ≤ s.cur ∧ s.cur < s.cfg.lenOf k ∧ s.buf.read 0 = some s.cfg.header ∧ s.buf.read 1 = some (s.cfg.markerOf k)

/-- The FrameBuffer: canonical form, every cell below `cur` written (`20_memory.md` R65), nothing at or beyond the longest frame
(`20_memory.md` R59), `cur ≤ CAP` (`10_state.md` R25). -/
structure BufInv (s : State) : Prop where
  canonical : Memory.wf s.buf = true
  written : ∀ a, a < s.cur → (s.buf.read a).isSome = true
  short : ∀ a, (∀ k, s.cfg.lenOf k ≤ a) → s.buf.read a = none
  fits : s.cur ≤ s.cfg.cap

/-- A record the block may publish (`10_state.md` R27): right header and marker, and `crc` is the checksum of the other 46 bytes. -/
def Publishable (c : Config) (r : MeasurementRecord) : Prop :=
  r.header = c.header ∧ r.verLen = c.measMarker ∧ r.crc = crcOf c (r.toBytes.take 46)

/-- The invariant of the reachable states. The configuration is admissible and has the Measurement length of the layout
(`30_encoding.md` R94); the counter fits its width (`10_state.md` R31). -/
structure StateInv (s : State) : Prop where
  config : s.cfg.wf
  layout : s.cfg.lenMeas = formatMBytes
  seq : SeqInv s
  buf : BufInv s
  counter : s.dropcnt < 2 ^ s.cfg.dropcntW
  cache : ∀ r, s.latest = some r → Publishable s.cfg r

/-- `CRC_TABLE` is a permutation of `0 … 255` (`41_checksum.md` R146: "non-degenerate"). -/
def TablePermutes (c : Config) : Prop :=
  ∀ i j : Fin 256, c.crcTable[i] = c.crcTable[j] → i = j

/-- A byte array that VALIDATE accepts as a whole (`41_checksum.md` R140): its last byte is the checksum of the others. -/
abbrev ValidBytes (c : Config) (bs : List Byte) : Prop :=
  bs.getLast? = some (crcOf c bs.dropLast)

end Sys2Proof.Machine
end

