-- ==== Sys2Proof/Certificates/Slice0/Obligations.lean ====
section
/-! DEFINITION. The statements about the model, from the numbered rules of spec/. Every statement holds for every state, and so for
every configuration `s.cfg`, unless it names one. -/

open Sys2Proof Sys2Proof.Machine

/-! ## Reset and external operations -/

/-- `10_state.md` R37, `70_reset_and_hazards.md` R230. `st` and `latest` are the source's; the other values are the spec's decision D8
(log entry 4). -/
def Obligations.ResetStateHasResetValues : Prop :=
  State.reset.st = .awaitHeader ∧ State.reset.latest = none ∧ State.reset.cur = 0 ∧ State.reset.handler = none ∧
    State.reset.dropcnt = 0 ∧ ∀ a, State.reset.buf.read a = none

/-- `70_reset_and_hazards.md` R230 (decision D8): RESET answers, sets all but `buf`, and afterwards no cell holds a value
(log entry 21). -/
def Obligations.ResetSetsAllButTheBuffer : Prop :=
  ∀ s : State, ∃ t, exec .reset s = .next t ∧
    t.st = .awaitHeader ∧ t.cur = 0 ∧ t.latest = none ∧ t.handler = none ∧ t.dropcnt = 0 ∧
    t.buf = s.buf ∧ t.cfg = s.cfg ∧ t.inp = s.inp ∧ t.out = s.out ∧ ∀ a v, readCell t a ≠ .next v

/-- `43_publish.md` R183: LATEST answers the cache and writes nothing. -/
def Obligations.LatestAnswersTheCache : Prop :=
  ∀ s : State, exec .latest s = .next (s.emit (.latest s.latest))

/-- `43_publish.md` R184 (decision D12): REGISTER replaces the handler, and does not invoke it. -/
def Obligations.RegisterReplacesTheHandler : Prop :=
  ∀ (s : State) (h : HandlerId), exec (.register h) s = .next { s with handler := some h }

/-! ## Micro-operations -/

/-- `40_frame_sync.md` R112: SYNC. -/
def Obligations.SyncStartsAFrame : Prop :=
  ∀ (s : State) (b : Byte), s.st = .awaitHeader → b = s.cfg.header → 0 < s.cfg.cap →
    exec (.sync b) s =
      .next (State.emit { s with st := .awaitKind, cur := 1, buf := s.buf.write 0 b } (.event .none))

/-- `40_frame_sync.md` R113: SKIP writes nothing. -/
def Obligations.SkipWritesNothing : Prop :=
  ∀ (s : State) (b : Byte), s.st = .awaitHeader → b ≠ s.cfg.header →
    exec (.skip b) s = .next (s.emit (.event .none))

/-- `40_frame_sync.md` R114, R115, R116: a marker is appended and the kind is accumulated. (`cur = 1` in AwaitKind by
`10_state.md` R26; the statement holds for any cursor inside the buffer.) -/
def Obligations.KindMarkersStartAccumulating : Prop :=
  ∀ (s : State) (b : Byte), s.st = .awaitKind → s.cur < s.cfg.cap →
    (b = s.cfg.measMarker →
      exec (.kindM b) s =
        .next (State.emit { s with st := .accumulating .measurement, cur := s.cur + 1, buf := s.buf.write s.cur b }
          (.event .none))) ∧
    (b ≠ s.cfg.measMarker → b = s.cfg.healthMarker →
      exec (.kindH b) s =
        .next (State.emit { s with st := .accumulating .health, cur := s.cur + 1, buf := s.buf.write s.cur b }
          (.event .none))) ∧
    (b ≠ s.cfg.measMarker → b ≠ s.cfg.healthMarker → b = s.cfg.manufMarker →
      exec (.kindI b) s =
        .next (State.emit { s with st := .accumulating .manufacturerInfo, cur := s.cur + 1, buf := s.buf.write s.cur b }
          (.event .none)))

/-- `40_frame_sync.md` R117 (decisions D7, D24): every byte that is no marker, HEADER included, is appended and the frame is
abandoned; the cursor is left as the append leaves it. -/
def Obligations.AbandonConsumesAnUnrecognizedKind : Prop :=
  ∀ (s : State) (b : Byte), s.st = .awaitKind → s.cur < s.cfg.cap →
    b ≠ s.cfg.measMarker → b ≠ s.cfg.healthMarker → b ≠ s.cfg.manufMarker →
    exec (.abandon b) s =
      .next (State.emit { s with st := .awaitHeader, cur := s.cur + 1, buf := s.buf.write s.cur b } (.event .none))

/-- `40_frame_sync.md` R118: any byte is data while the frame is not complete. -/
def Obligations.AccStoresABodyByte : Prop :=
  ∀ (s : State) (b : Byte) (k : Kind), s.st = .accumulating k → s.cur < s.cfg.cap → s.cur + 1 < s.cfg.lenOf k →
    exec (.acc b) s =
      .next (State.emit { s with cur := s.cur + 1, buf := s.buf.write s.cur b } (.event .none))

/-- `40_frame_sync.md` R119, R120, R121: the last byte is appended, the machine returns to AwaitHeader and reports the kind. -/
def Obligations.FinCompletesTheFrame : Prop :=
  ∀ (s : State) (b : Byte), s.cur < s.cfg.cap →
    (s.st = .accumulating .measurement → s.cur + 1 = s.cfg.lenMeas →
      exec (.finM b) s =
        .next (State.emit { s with st := .awaitHeader, cur := s.cfg.lenMeas, buf := s.buf.write (s.cfg.lenMeas - 1) b }
          (.event (.frameReady .measurement)))) ∧
    (s.st = .accumulating .health → s.cur + 1 = s.cfg.lenHealth →
      exec (.finH b) s =
        .next (State.emit { s with st := .awaitHeader, cur := s.cfg.lenHealth, buf := s.buf.write (s.cfg.lenHealth - 1) b }
          (.event (.frameReady .health)))) ∧
    (s.st = .accumulating .manufacturerInfo → s.cur + 1 = s.cfg.lenManuf →
      exec (.finI b) s =
        .next (State.emit { s with st := .awaitHeader, cur := s.cfg.lenManuf, buf := s.buf.write (s.cfg.lenManuf - 1) b }
          (.event (.frameReady .manufacturerInfo))))

/-- `40_frame_sync.md` R122 (decisions D7, D25): past the capacity the byte is not stored and the machine returns to AwaitHeader. -/
def Obligations.OvfStoresNothing : Prop :=
  ∀ (s : State) (b : Byte) (k : Kind), s.st = .accumulating k → s.cfg.cap ≤ s.cur →
    exec (.ovf b) s = .next (State.emit { s with st := .awaitHeader } (.event .none))

/-- The model's choice (log entry 10): a micro-operation issued where `30_encoding.md` R88 does not select it is refused by name. -/
def Obligations.UnselectedMicroOperationIsRefused : Prop :=
  ∀ (u : MicroOp) (b : Byte) (s : State), select s.cfg s.st s.cur b ≠ some u →
    exec (u.instr b) s = .refused (.notSelected u)

/-- `20_memory.md` R51: a micro-operation writes the one cell at its store offset, or none, and leaves `latest`, `handler`, `dropcnt`,
the configuration and the pending operations alone. -/
def Obligations.MicroOperationFrame : Prop :=
  ∀ (u : MicroOp) (b : Byte) (s t : State), exec (u.instr b) s = .next t →
    t.latest = s.latest ∧ t.handler = s.handler ∧ t.dropcnt = s.dropcnt ∧ t.cfg = s.cfg ∧ t.inp = s.inp ∧
    (storeOffset u s.cur = none → t.cur = s.cur ∧ ∀ a, t.buf.read a = s.buf.read a) ∧
    (∀ x, storeOffset u s.cur = some x →
      t.cur = x + 1 ∧ t.buf.read x = some b ∧ ∀ a, a ≠ x → t.buf.read a = s.buf.read a)

/-! ## Selection -/

/-- `30_encoding.md` R88: the condition under which each micro-operation is selected. -/
def Obligations.SelectionConditions : Prop :=
  ∀ (c : Config) (st : DecoderState) (cur : Nat) (b : Byte),
    (select c st cur b = some .sync ↔ st = .awaitHeader ∧ b = c.header) ∧
    (select c st cur b = some .skip ↔ st = .awaitHeader ∧ b ≠ c.header) ∧
    (select c st cur b = some .kindM ↔ st = .awaitKind ∧ b = c.measMarker) ∧
    (select c st cur b = some .kindH ↔ st = .awaitKind ∧ b ≠ c.measMarker ∧ b = c.healthMarker) ∧
    (select c st cur b = some .kindI ↔
      st = .awaitKind ∧ b ≠ c.measMarker ∧ b ≠ c.healthMarker ∧ b = c.manufMarker) ∧
    (select c st cur b = some .abandon ↔
      st = .awaitKind ∧ b ≠ c.measMarker ∧ b ≠ c.healthMarker ∧ b ≠ c.manufMarker) ∧
    (select c st cur b = some .ovf ↔ (∃ k, st = .accumulating k) ∧ c.cap ≤ cur) ∧
    (select c st cur b = some .acc ↔ ∃ k, st = .accumulating k ∧ cur < c.cap ∧ cur + 1 < c.lenOf k) ∧
    (select c st cur b = some .finM ↔ st = .accumulating .measurement ∧ cur < c.cap ∧ cur + 1 = c.lenMeas) ∧
    (select c st cur b = some .finH ↔ st = .accumulating .health ∧ cur < c.cap ∧ cur + 1 = c.lenHealth) ∧
    (select c st cur b = some .finI ↔ st = .accumulating .manufacturerInfo ∧ cur < c.cap ∧ cur + 1 = c.lenManuf)

/-- `30_encoding.md` R97: selecting by tests is selecting by the rows of `opcode_table.json` (state, cursor, match, mask, priority). -/
def Obligations.SelectionIsTheOpcodeTable : Prop :=
  ∀ (c : Config) (st : DecoderState) (cur : Nat) (b : Byte), select c st cur b = selectByRows c st cur b

/-- `30_encoding.md` R88, `10_state.md` R26: in a state of the invariant every byte selects a micro-operation, and never OVF (C2). -/
def Obligations.ReachableStatesSelectAndNeverOverflow : Prop :=
  ∀ (s : State) (b : Byte), StateInv s → ∃ u, select s.cfg s.st s.cur b = some u ∧ u ≠ .ovf

/-! ## The complete FEED -/

/-- `40_frame_sync.md` R111, `43_publish.md` R180: FEED is the selected micro-operation, then STEP on its event. -/
def Obligations.FeedIsMicroOperationThenStep : Prop :=
  ∀ (b : Byte) (s m : State) (u : MicroOp) (e : Event), select s.cfg s.st s.cur b = some u →
    exec (u.instr b) s = .next (m.emit (.event e)) → exec (.feed b) s = exec (.step e) m

/-- `40_frame_sync.md` R125: in every state of the invariant FEED answers for every byte, its report is its newest output, and the
invariant holds after it. -/
def Obligations.FeedAlwaysAnswers : Prop :=
  ∀ (s : State) (b : Byte), StateInv s →
    ∃ t r o, exec (.feed b) s = .next t ∧ StateInv t ∧ t.out = .report r :: o

/-- `10_state.md` R32, `20_memory.md` R51, `43_publish.md` R181, R189: what a FEED leaves alone. The one cell it can change is at its store
offset, and the cache changes only to the record its report publishes. -/
def Obligations.FeedFrame : Prop :=
  ∀ (b : Byte) (s t : State), exec (.feed b) s = .next t →
    t.cfg = s.cfg ∧ t.handler = s.handler ∧ t.inp = s.inp ∧
    (∀ a, feedStoreOffset s b ≠ some a → t.buf.read a = s.buf.read a) ∧
    (∀ x, feedStoreOffset s b = some x → t.buf.read x = some b) ∧
    ∃ r, t.out.head? = some (.report r) ∧
      (r.published = none → t.latest = s.latest) ∧ (∀ x, r.published = some x → t.latest = some x)

/-- `43_publish.md` R186: a FEED publishes exactly when its byte completes a Measurement frame whose checksum is valid, and then the
record is the one in the buffer. -/
def Obligations.FeedPublishesExactlyTheValidMeasurementFrames : Prop :=
  ∀ (b : Byte) (s t : State) (bs : List Byte) (r : StepReport), StateInv s → bs.length = s.cur → s.holds bs →
    exec (.feed b) s = .next t → t.out.head? = some (.report r) →
    ∀ x, r.published = some x ↔
      select s.cfg s.st s.cur b = some .finM ∧ ValidBytes s.cfg (bs ++ [b]) ∧ x = recordOf (byteAt (bs ++ [b]))

/-! ## STEP and the output stage -/

/-- `43_publish.md` R187: with the event None the report is quiet and nothing else changes. -/
def Obligations.StepWithoutEventIsQuiet : Prop :=
  ∀ s : State, exec (.step .none) s =
    .next (s.emit (.report ⟨.none, false, false, none, false⟩))

/-- `60_exceptions.md` R204 (decision D11), `43_publish.md` R189: a completed frame of any kind whose checksum is wrong adds one to
`dropcnt` modulo 2^DROPCNT_W and changes nothing else. -/
def Obligations.ChecksumMismatchOnlyCounts : Prop :=
  ∀ (s : State) (k : Kind) (bs : List Byte), bs.length = s.cfg.lenOf k → bs ≠ [] → s.holds bs →
    ¬ ValidBytes s.cfg bs →
    exec (.step (.frameReady k)) s =
      .next (State.emit { s with dropcnt := (s.dropcnt + 1) % 2 ^ s.cfg.dropcntW }
        (.report ⟨.frameReady k, false, false, none, false⟩))

/-- `43_publish.md` R180, R185 (decision D16): a completed short frame whose checksum is right changes nothing and is reported as passed. -/
def Obligations.ValidShortFrameOnlyReports : Prop :=
  ∀ (s : State) (k : ShortKind) (bs : List Byte), bs.length = s.cfg.lenOf k.kind → bs ≠ [] → s.holds bs →
    ValidBytes s.cfg bs →
    exec (.step (.frameReady k.kind)) s =
      .next (s.emit (.report ⟨.frameReady k.kind, true, true, none, false⟩))

/-- `43_publish.md` R180 to R182 (decision D14): a completed Measurement frame whose checksum is right is decoded, the record
replaces the cache, the handler, if there is one, is invoked with it once, and the report says so. -/
def Obligations.ValidMeasurementFrameIsPublished : Prop :=
  ∀ (s : State) (bs : List Byte), bs.length = s.cfg.lenMeas → 47 ≤ bs.length → s.holds bs → ValidBytes s.cfg bs →
    (s.handler = none →
      exec (.step (.frameReady .measurement)) s =
        .next (State.emit { s with latest := some (recordOf (byteAt bs)) }
          (.report ⟨.frameReady .measurement, true, false, some (recordOf (byteAt bs)), false⟩))) ∧
    (∀ h, s.handler = some h →
      exec (.step (.frameReady .measurement)) s =
        .next (State.emit (State.emit { s with latest := some (recordOf (byteAt bs)) } (.invoked h (recordOf (byteAt bs))))
          (.report ⟨.frameReady .measurement, true, false, some (recordOf (byteAt bs)), true⟩)))

/-- `43_publish.md` R181: PUBLISH overwrites the cache with the whole record. -/
def Obligations.PublishOverwritesTheCache : Prop :=
  ∀ (s : State) (r : MeasurementRecord), exec (.publish r) s = .next { s with latest := some r }

/-- `43_publish.md` R182: NOTIFY invokes the registered handler once with the record, or does nothing, and answers which. -/
def Obligations.NotifyInvokesTheRegisteredHandler : Prop :=
  ∀ (s : State) (r : MeasurementRecord),
    (s.handler = none → exec (.notify r) s = .next (s.emit (.flag false))) ∧
    (∀ h, s.handler = some h → exec (.notify r) s = .next ((s.emit (.invoked h r)).emit (.flag true)))

/-- `43_publish.md` R185 (decision D16): PASS changes no state and reports the kind as passed. -/
def Obligations.PassChangesNoState : Prop :=
  ∀ (s : State),
    exec (.pass .health) s = .next (s.emit (.report ⟨.frameReady .health, true, true, none, false⟩)) ∧
    exec (.pass .manufacturerInfo) s = .next (s.emit (.report ⟨.frameReady .manufacturerInfo, true, true, none, false⟩))

/-- `43_publish.md` R180, `20_memory.md` R51: STEP leaves `st`, `buf`, `cur`, `handler`, the configuration and the pending operations
alone. -/
def Obligations.StepFrame : Prop :=
  ∀ (e : Event) (s t : State), exec (.step e) s = .next t →
    t.st = s.st ∧ (∀ a, t.buf.read a = s.buf.read a) ∧ t.cur = s.cur ∧ t.handler = s.handler ∧ t.cfg = s.cfg ∧ t.inp = s.inp ∧
    (e = .none → t.latest = s.latest ∧ t.dropcnt = s.dropcnt) ∧
    (∀ k : ShortKind, e = .frameReady k.kind → t.latest = s.latest) ∧
    (t.latest = s.latest ∨ t.dropcnt = s.dropcnt)

/-! ## Checksum -/

/-- `41_checksum.md` R141: one table look-up. -/
def Obligations.ChecksumUpdateIsATableLookup : Prop :=
  ∀ (s : State) (c d : Byte), exec (.crc8Upd c d) s = .next (s.emit (.byte s.cfg.crcTable[(c ^^^ d).toNat]))

/-- `41_checksum.md` R142: the fold of the look-up over the bytes from `lo` to `hi`, both included, from CRC_INIT; the empty range gives
CRC_INIT. `B` is the FrameBuffer or any array given by its bytes. -/
def Obligations.ChecksumFoldsTheRange : Prop :=
  ∀ (s : State) (B : ByteArg) (lo : Nat) (hi : Int) (f : Nat → Byte),
    (∀ x : Nat, lo ≤ x → (x : Int) ≤ hi → readArg s B x = .next (f x)) →
    exec (.crc8 B lo hi) s =
      .next (s.emit (.byte (((List.range' lo (hi + 1 - lo).toNat).map f).foldl
        (fun c d => s.cfg.crcTable[(c ^^^ d).toNat]) s.cfg.crcInit)))

/-- `41_checksum.md` R140: VALIDATE compares the checksum of bytes `0 … n-2` with byte `n-1`, for every `n ≥ 1`. Length 0 is refused
(decision D26, U15; log entry 13). -/
def Obligations.ValidateComparesTheLastByte : Prop :=
  (∀ (s : State) (B : ByteArg) (n : Nat) (f : Nat → Byte), 1 ≤ n →
    (∀ x, x < n → readArg s B x = .next (f x)) →
    exec (.validate B n) s =
      .next (s.emit (.flag (decide (crcOf s.cfg ((List.range (n - 1)).map f) = f (n - 1)))))) ∧
  ∀ (s : State) (B : ByteArg), exec (.validate B 0) s = .refused .validateLengthZero

/-- `41_checksum.md` R146: with a table that is a permutation, two arrays that differ in exactly one checksummed byte are not both
valid. -/
def Obligations.OneChangedByteIsDetected : Prop :=
  ∀ (c : Config) (bs cs : List Byte) (p : Nat), TablePermutes c → bs.length = cs.length → p + 1 < bs.length →
    bs[p]? ≠ cs[p]? → (∀ x, x ≠ p → bs[x]? = cs[x]?) → ¬ (ValidBytes c bs ∧ ValidBytes c cs)

/-! ## Record -/

/-- `42_record_decode.md` R160: one byte, unchanged. -/
def Obligations.Get8AnswersTheByte : Prop :=
  ∀ (s : State) (B : ByteArg) (a : Nat) (v : Byte), readArg s B a = .next v →
    exec (.get8 B a) s = .next (s.emit (.byte v))

/-- `42_record_decode.md` R161, `20_memory.md` R53: two bytes at any offset, little-endian, unsigned. -/
def Obligations.Get16leIsLittleEndian : Prop :=
  ∀ (s : State) (B : ByteArg) (a : Nat) (lo hi : Byte), readArg s B a = .next lo → readArg s B (a + 1) = .next hi →
    ∃ v : Half, exec (.get16le B a) s = .next (s.emit (.half v)) ∧ v.toNat = lo.toNat + 256 * hi.toNat

/-- `42_record_decode.md` R162: the fixed-offset extraction, field by field. -/
def Obligations.DecodeExtractsTheFields : Prop :=
  ∀ (s : State) (B : ByteArg) (f : Nat → Byte), (∀ x, x < 47 → readArg s B x = .next (f x)) →
    ∃ r, exec (.decode B) s = .next (s.emit (.record r)) ∧
      r.header = f 0 ∧ r.verLen = f 1 ∧
      r.speed.toNat = (f 2).toNat + 256 * (f 3).toNat ∧
      r.startAngle.toNat = (f 4).toNat + 256 * (f 5).toNat ∧
      (∀ (i : Nat) (h : i < 12),
        r.points[i].distance.toNat = (f (6 + 3 * i)).toNat + 256 * (f (7 + 3 * i)).toNat ∧
        r.points[i].intensity = f (8 + 3 * i)) ∧
      r.endAngle.toNat = (f 42).toNat + 256 * (f 43).toNat ∧
      r.timestamp.toNat = (f 44).toNat + 256 * (f 45).toNat ∧
      r.crc = f 46

/-- `42_record_decode.md` R163: DECODE is a bijection between 47-byte arrays and records; its inverse is the serializer. -/
def Obligations.RecordsAndBytesCorrespond : Prop :=
  (∀ r : MeasurementRecord, recordOf (byteAt r.toBytes) = r) ∧
    ∀ bs : List Byte, bs.length = 47 → (recordOf (byteAt bs)).toBytes = bs

/-- `41_checksum.md` R145, `20_memory.md` R52, `43_publish.md` R183, R185: the functions and LATEST write no state; only an output is
added. -/
def Obligations.FunctionsWriteNoState : Prop :=
  ∀ (i : Instr) (s t : State),
    ((∃ B n, i = .validate B n) ∨ (∃ c d, i = .crc8Upd c d) ∨ (∃ B lo hi, i = .crc8 B lo hi) ∨ (∃ B a, i = .get8 B a) ∨
      (∃ B a, i = .get16le B a) ∨ (∃ B, i = .decode B) ∨ (∃ k, i = .pass k) ∨ i = .latest) →
    exec i s = .next t → ∃ o, t = s.emit o

/-! ## Encodings -/

/-- Words written out from `30_encoding.md` R84 and `opcode_table.json` decode to their rows. THE MODEL'S CHOICE, log entry 15: an 8-bit
word is read without a decoder state, and the bytes of a frame beyond its 16-bit word are 0. The spec's defaults, log entry 2: the
Health and ManufacturerInfo markers of the default configuration. -/
def Obligations.TableWordsDecodeToTheirRows : Prop :=
  decodeTableWord 8 0b01010100 = some (.sync 0x54) ∧ decodeTableWord 8 0b00101100 = some (.kindM 0x2C) ∧
    decodeTableWord 8 0b11100000 = some (.kindH 0xE0) ∧ decodeTableWord 8 0b00001111 = some (.kindI 0x0F) ∧
    (decodeTableWord 16 0b0010110001010100).bind encode = some ([0x54, 0x2C] ++ List.replicate 45 0) ∧
    (decodeTableWord 16 0b1110000001010100).bind encode = some ([0x54, 0xE0] ++ List.replicate 10 0) ∧
    (decodeTableWord 16 0b0000111101010100).bind encode = some ([0x54, 0x0F] ++ List.replicate 10 0)

/-- `30_encoding.md` R88: decoding an input byte gives a well-formed micro-operation whose encoding is that byte; and every
well-formed micro-operation is what its byte decodes to in some sequencing state of an admissible configuration. -/
def Obligations.MicroOperationsDecodeAndEncodeAgree : Prop :=
  (∀ (c : Config) (st : DecoderState) (cur : Nat) (b : Byte) (i : Instr), decodeByte c st cur b = .ok i →
    i.wf c = true ∧ encode i = some [b]) ∧
  ∀ (c : Config) (u : MicroOp) (b : Byte), c.wf → (u.instr b).wf c = true →
    encode (u.instr b) = some [b] ∧ ∃ st cur, decodeByte c st cur b = .ok (u.instr b)

/-- `30_encoding.md` R82, R83, R85: decoding the bytes of a well-formed frame, whatever follows them, gives the frame back with
every field; and bytes that decode to a frame are the bytes of that frame, which is well-formed. -/
def Obligations.FramesDecodeAndEncodeAgree : Prop :=
  (∀ (c : Config) (r : MeasurementRecord) (rest : List Byte), (Instr.frameM r).wf c = true →
    decodeFrame c (r.toBytes ++ rest) = .ok (.frameM r, rest)) ∧
  (∀ (c : Config) (f : ShortFrame) (rest : List Byte), (Instr.frameH f).wf c = true →
    decodeFrame c (f.toBytes ++ rest) = .ok (.frameH f, rest)) ∧
  (∀ (c : Config) (f : ShortFrame) (rest : List Byte), (Instr.frameI f).wf c = true →
    decodeFrame c (f.toBytes ++ rest) = .ok (.frameI f, rest)) ∧
  ∀ (c : Config) (bs rest : List Byte) (i : Instr), decodeFrame c bs = .ok (i, rest) →
    i.wf c = true ∧ ∃ enc, encode i = some enc ∧ bs = enc ++ rest

/-! ## The step -/

/-- `00_scope.md` R12: under an admissible configuration a step takes the oldest pending operation and runs it; with none pending
the block holds its state (`60_exceptions.md` R219; log entry 7); a burst is its FEEDs (`30_encoding.md` R96; log entry 9). -/
def Obligations.StepRunsTheOldestOperation : Prop :=
  ∀ (s : State) (rest : List Op), s.cfg.wf →
    (s.inp = [] → step s = .next s) ∧
    (s.inp = .reset :: rest → step s = exec .reset { s with inp := rest }) ∧
    (∀ b, s.inp = .feed b :: rest → step s = exec (.feed b) { s with inp := rest }) ∧
    (s.inp = .latest :: rest → step s = exec .latest { s with inp := rest }) ∧
    (∀ h, s.inp = .register h :: rest → step s = exec (.register h) { s with inp := rest }) ∧
    (∀ bs, s.inp = .feeds bs :: rest → step s = feedAll bs { s with inp := rest })

/-- A step on one input byte runs the instruction the byte decodes to in the present sequencing state, then STEP on its event
(`40_frame_sync.md` R111, `43_publish.md` R180); a step on the bytes of a frame runs the frame instruction they decode to
(`30_encoding.md` R82, R83, R96; log entry 16). -/
def Obligations.StepRunsTheDecodedInstruction : Prop :=
  (∀ (s m : State) (rest : List Op) (b : Byte) (i : Instr) (e : Event), s.cfg.wf → s.inp = .feed b :: rest →
    decodeByte s.cfg s.st s.cur b = .ok i → exec i { s with inp := rest } = .next (m.emit (.event e)) →
    step s = exec (.step e) m) ∧
  ∀ (s : State) (rest : List Op) (bs : List Byte) (i : Instr), s.cfg.wf → s.inp = .feeds bs :: rest →
    decodeFrame s.cfg bs = .ok (i, []) → step s = exec i { s with inp := rest }

/-- `00_scope.md` R8, R9 (decisions D19, D21): a configuration with two equal markers or a length outside `2 < LEN ≤ CAP` is
refused, whatever is pending. -/
def Obligations.IllFormedConfigurationIsRefused : Prop :=
  ∀ s : State, ¬ s.cfg.wf → step s = .refused .illFormedConfig

/-- `30_encoding.md` R96: one step on a burst is as many steps as it has bytes, one FEED each. -/
def Obligations.BurstIsItsFeeds : Prop :=
  ∀ (s : State) (bs : List Byte) (rest : List Op), s.cfg.wf →
    step { s with inp := .feeds bs :: rest } =
      Host.Core.run Sys2Proof.core bs.length { s with inp := bs.map Op.feed ++ rest }

/-! ## Invariants -/

/-- `10_state.md` R26, R37: the invariant holds at reset. -/
def Obligations.InvariantHoldsAtReset : Prop := StateInv State.reset

/-- `10_state.md` R22, R25, R26, R27, R31, `20_memory.md` R59, R65: every step keeps the invariant. -/
def Obligations.StepKeepsTheInvariant : Prop :=
  ∀ s t : State, StateInv s → step s = .next t → StateInv t

/-- `40_frame_sync.md` R125, `60_exceptions.md` R200: from the invariant no step faults or refuses. -/
def Obligations.StepNeverStops : Prop :=
  ∀ s : State, StateInv s → Completes (step s)

/-- `10_state.md` R25, `40_frame_sync.md` R130: whatever the configuration, no instruction changes a cell at or above CAP, and none
moves the cursor past CAP. -/
def Obligations.NothingIsWrittenPastTheCapacity : Prop :=
  ∀ (i : Instr) (s t : State), exec i s = .next t →
    t.cfg = s.cfg ∧ (∀ a, s.cfg.cap ≤ a → t.buf.read a = s.buf.read a) ∧ (s.cur ≤ s.cfg.cap → t.cur ≤ s.cfg.cap)

/-- `60_exceptions.md` R213, `10_state.md` R32: the consumer changes nothing, the producer never writes `handler`, the host never writes
`buf`, and nobody writes the parameters. -/
def Obligations.ContextsWriteOnlyTheirState : Prop :=
  ∀ (o : Op) (s t : State), issue o s = .next t →
    t.cfg = s.cfg ∧ t.inp = s.inp ∧
    (contextOf o = .consumer → ∃ x, t = s.emit x) ∧
    (contextOf o = .producer → t.handler = s.handler) ∧
    (contextOf o = .host → t.buf = s.buf)

/-- `10_state.md` R29: once a record is cached, only RESET empties the cache. -/
def Obligations.CacheIsEmptiedOnlyByReset : Prop :=
  ∀ (o : Op) (s t : State), issue o s = .next t → s.latest ≠ none → o ≠ .reset → t.latest ≠ none

/-! ## Whole frames -/

/-- `40_frame_sync.md` R126, `95_test_vectors.md` S1, S2: from AwaitHeader the 47 bytes of a Measurement frame with the right checksum
give 46 quiet reports and one publish of exactly that record, with one callback invocation if a handler is registered. -/
def Obligations.MeasurementFramePublishesItsRecord : Prop :=
  ∀ (s : State) (r : MeasurementRecord), s.cfg.wf → s.cfg.lenMeas = 47 → s.st = .awaitHeader → Publishable s.cfg r →
    ∃ t, exec (.frameM r) s = .next t ∧
      t.st = .awaitHeader ∧ t.cur = 47 ∧ t.holds r.toBytes ∧ (∀ a, 47 ≤ a → t.buf.read a = s.buf.read a) ∧
      t.latest = some r ∧ t.handler = s.handler ∧ t.dropcnt = s.dropcnt ∧ t.cfg = s.cfg ∧ t.inp = s.inp ∧
      t.out = .report ⟨.frameReady .measurement, true, false, some r, s.handler.isSome⟩ ::
        ((s.handler.map fun h => Output.invoked h r).toList ++
          List.replicate 46 (.report ⟨.none, false, false, none, false⟩) ++ s.out)

/-- `43_publish.md` R189, `95_test_vectors.md` S1 (last clause): the same frame with any other checksum byte publishes nothing; only
`dropcnt` shows it. That a mismatch adds one to `dropcnt` is the spec's decision D11 (log entry 26). -/
def Obligations.WrongChecksumPublishesNothing : Prop :=
  ∀ (s : State) (r : MeasurementRecord), s.cfg.wf → s.cfg.lenMeas = 47 → s.st = .awaitHeader →
    r.header = s.cfg.header → r.verLen = s.cfg.measMarker → r.crc ≠ crcOf s.cfg (r.toBytes.take 46) →
    ∃ t, exec (.frameM r) s = .next t ∧
      t.st = .awaitHeader ∧ t.cur = 47 ∧ t.holds r.toBytes ∧ (∀ a, 47 ≤ a → t.buf.read a = s.buf.read a) ∧
      t.latest = s.latest ∧ t.handler = s.handler ∧ t.dropcnt = (s.dropcnt + 1) % 2 ^ s.cfg.dropcntW ∧
      t.cfg = s.cfg ∧ t.inp = s.inp ∧
      t.out = .report ⟨.frameReady .measurement, false, false, none, false⟩ ::
        (List.replicate 46 (.report ⟨.none, false, false, none, false⟩) ++ s.out)

/-- `40_frame_sync.md` R126, `43_publish.md` R185, `60_exceptions.md` R204: from AwaitHeader a short frame of either kind is reported as
passed (decision D16, log entry 28) or counted as dropped (decision D11, log entry 26) by its checksum, and never touches the cache
or the handler. -/
def Obligations.ShortFramesPassOrCount : Prop :=
  ∀ (s : State) (f : ShortFrame) (k : ShortKind) (i : Instr), s.cfg.wf → s.cfg.lenOf k.kind = 12 → s.st = .awaitHeader →
    f.header = s.cfg.header → f.marker = s.cfg.markerOf k.kind →
    (k = .health → i = .frameH f) → (k = .manufacturerInfo → i = .frameI f) →
    ∃ t, exec i s = .next t ∧
      t.st = .awaitHeader ∧ t.cur = 12 ∧ t.holds f.toBytes ∧ (∀ a, 12 ≤ a → t.buf.read a = s.buf.read a) ∧
      t.latest = s.latest ∧ t.handler = s.handler ∧ t.cfg = s.cfg ∧ t.inp = s.inp ∧
      (f.crc = crcOf s.cfg (f.toBytes.take 11) →
        t.dropcnt = s.dropcnt ∧
        t.out = .report ⟨.frameReady k.kind, true, true, none, false⟩ ::
          (List.replicate 11 (.report ⟨.none, false, false, none, false⟩) ++ s.out)) ∧
      (f.crc ≠ crcOf s.cfg (f.toBytes.take 11) →
        t.dropcnt = (s.dropcnt + 1) % 2 ^ s.cfg.dropcntW ∧
        t.out = .report ⟨.frameReady k.kind, false, false, none, false⟩ ::
          (List.replicate 11 (.report ⟨.none, false, false, none, false⟩) ++ s.out))

/-- `40_frame_sync.md` R127: garbage without a header byte leaves the state untouched. -/
def Obligations.GarbageWithoutHeaderIsSkipped : Prop :=
  ∀ (s : State) (bs : List Byte), s.st = .awaitHeader → (∀ b ∈ bs, b ≠ s.cfg.header) →
    issue (.feeds bs) s =
      .next { s with out := List.replicate bs.length (.report ⟨.none, false, false, none, false⟩) ++ s.out }

/-- `40_frame_sync.md` R129, `95_test_vectors.md` S5: two valid frames back to back are both published, in order, and the cache holds
the second. -/
def Obligations.BackToBackFramesArePublishedInOrder : Prop :=
  ∀ (s : State) (r q : MeasurementRecord), s.cfg.wf → s.cfg.lenMeas = 47 → s.st = .awaitHeader →
    Publishable s.cfg r → Publishable s.cfg q →
    ∃ t, issue (.feeds (r.toBytes ++ q.toBytes)) s = .next t ∧ t.st = .awaitHeader ∧ t.latest = some q ∧
      t.dropcnt = s.dropcnt ∧
      t.out.filterMap (fun o => match o with | .report p => p.published | _ => none) =
        q :: r :: s.out.filterMap (fun o => match o with | .report p => p.published | _ => none)

/-- `70_reset_and_hazards.md` R236 (decision D24): a stray header byte before a valid frame that holds no other header byte swallows
that frame: nothing is published, reported or counted. -/
def Obligations.StrayHeaderSwallowsTheNextFrame : Prop :=
  ∀ (s : State) (r : MeasurementRecord), s.cfg.wf → s.st = .awaitHeader → r.header = s.cfg.header →
    classify s.cfg s.cfg.header = .unrecognized → (∀ b ∈ r.toBytes.tail, b ≠ s.cfg.header) →
    ∃ t, issue (.feeds (s.cfg.header :: r.toBytes)) s = .next t ∧ t.st = .awaitHeader ∧ t.cur = 2 ∧
      t.latest = s.latest ∧ t.handler = s.handler ∧ t.dropcnt = s.dropcnt ∧
      t.out = List.replicate 48 (.report ⟨.none, false, false, none, false⟩) ++ s.out

/-- `41_checksum.md` R146, `95_test_vectors.md` S3: with a permutation table, a valid frame with one byte of offsets 2 to 45 changed,
fed from AwaitHeader, publishes nothing and is counted. That a mismatch adds one to `dropcnt` is the spec's decision D11 (log
entry 26). -/
def Obligations.AFrameWithOneChangedBodyByteIsDropped : Prop :=
  ∀ (s : State) (r q : MeasurementRecord) (p : Nat), s.cfg.wf → s.cfg.lenMeas = 47 → TablePermutes s.cfg →
    s.st = .awaitHeader → Publishable s.cfg r → 2 ≤ p → p ≤ 45 →
    byteAt q.toBytes p ≠ byteAt r.toBytes p → (∀ x, x ≠ p → byteAt q.toBytes x = byteAt r.toBytes x) →
    ∃ t, exec (.frameM q) s = .next t ∧ t.st = .awaitHeader ∧ t.latest = s.latest ∧
      t.dropcnt = (s.dropcnt + 1) % 2 ^ s.cfg.dropcntW

/-! ## Exceptions and ports -/

/-- `60_exceptions.md` R201 to R205, R207: what taking each error does. That a checksum mismatch of every kind adds one to `dropcnt` is
the spec's decision D11 (log entry 26). -/
def Obligations.ErrorsChangeAtMostStateAndCounter : Prop :=
  ∀ s : State,
    raise .headerMismatch s = s ∧
    raise .unrecognizedKind s = { s with st := .awaitHeader } ∧
    raise .overflow s = { s with st := .awaitHeader } ∧
    (∀ k, raise (.checksumMismatch k) s = { s with dropcnt := (s.dropcnt + 1) % 2 ^ s.cfg.dropcntW }) ∧
    raise .transport s = s

/-- `60_exceptions.md` R210 (decision D2): with `rst` every other strobe is dropped; one strobe alone performs its operation. -/
def Obligations.ResetStrobeWins : Prop :=
  ∀ (p : InPorts),
    (p.rst = true → p.op = .next (some .reset)) ∧
    (p.rst = false → p.inValid = true → p.regSet = false → p.op = .next (some (.feed p.inByte))) ∧
    (p.rst = false → p.inValid = false → p.regSet = true → p.op = .next (some (.register p.regId))) ∧
    (p.rst = false → p.inValid = false → p.regSet = false → p.op = .next none)
end

