-- ==== Sys2Proof/Laws/State.lean ====
section
/-! SUPPORT. One lemma per field per update of State, so that no proof unfolds an update. -/

namespace Sys2Proof.Machine

/-! ## `emit` -/

@[simp] theorem emit_cfg (s : State) (o : Output) : (s.emit o).cfg = s.cfg := rfl
@[simp] theorem emit_st (s : State) (o : Output) : (s.emit o).st = s.st := rfl
@[simp] theorem emit_buf (s : State) (o : Output) : (s.emit o).buf = s.buf := rfl
@[simp] theorem emit_cur (s : State) (o : Output) : (s.emit o).cur = s.cur := rfl
@[simp] theorem emit_latest (s : State) (o : Output) : (s.emit o).latest = s.latest := rfl
@[simp] theorem emit_handler (s : State) (o : Output) : (s.emit o).handler = s.handler := rfl
@[simp] theorem emit_dropcnt (s : State) (o : Output) : (s.emit o).dropcnt = s.dropcnt := rfl
@[simp] theorem emit_inp (s : State) (o : Output) : (s.emit o).inp = s.inp := rfl
@[simp] theorem emit_out (s : State) (o : Output) : (s.emit o).out = o :: s.out := rfl

/-! ## `publish` -/

@[simp] theorem publish_cfg (r : MeasurementRecord) (s : State) : (publish r s).cfg = s.cfg := rfl
@[simp] theorem publish_st (r : MeasurementRecord) (s : State) : (publish r s).st = s.st := rfl
@[simp] theorem publish_buf (r : MeasurementRecord) (s : State) : (publish r s).buf = s.buf := rfl
@[simp] theorem publish_cur (r : MeasurementRecord) (s : State) : (publish r s).cur = s.cur := rfl
@[simp] theorem publish_latest (r : MeasurementRecord) (s : State) : (publish r s).latest = some r := rfl
@[simp] theorem publish_handler (r : MeasurementRecord) (s : State) : (publish r s).handler = s.handler := rfl
@[simp] theorem publish_dropcnt (r : MeasurementRecord) (s : State) : (publish r s).dropcnt = s.dropcnt := rfl
@[simp] theorem publish_inp (r : MeasurementRecord) (s : State) : (publish r s).inp = s.inp := rfl
@[simp] theorem publish_out (r : MeasurementRecord) (s : State) : (publish r s).out = s.out := rfl

/-! ## `push` -/

@[simp] theorem push_cfg (s : State) (o : Op) : (s.push o).cfg = s.cfg := rfl
@[simp] theorem push_st (s : State) (o : Op) : (s.push o).st = s.st := rfl
@[simp] theorem push_buf (s : State) (o : Op) : (s.push o).buf = s.buf := rfl
@[simp] theorem push_cur (s : State) (o : Op) : (s.push o).cur = s.cur := rfl
@[simp] theorem push_latest (s : State) (o : Op) : (s.push o).latest = s.latest := rfl
@[simp] theorem push_handler (s : State) (o : Op) : (s.push o).handler = s.handler := rfl
@[simp] theorem push_dropcnt (s : State) (o : Op) : (s.push o).dropcnt = s.dropcnt := rfl
@[simp] theorem push_inp (s : State) (o : Op) : (s.push o).inp = o :: s.inp := rfl
@[simp] theorem push_out (s : State) (o : Op) : (s.push o).out = s.out := rfl

/-! ## `afterSync` -/

@[simp] theorem afterSync_cfg (s : State) : (s.afterSync).cfg = s.cfg := rfl
@[simp] theorem afterSync_st (s : State) : (s.afterSync).st = .awaitKind := rfl
@[simp] theorem afterSync_buf (s : State) : (s.afterSync).buf = s.buf.write 0 s.cfg.header := rfl
@[simp] theorem afterSync_cur (s : State) : (s.afterSync).cur = 1 := rfl
@[simp] theorem afterSync_latest (s : State) : (s.afterSync).latest = s.latest := rfl
@[simp] theorem afterSync_handler (s : State) : (s.afterSync).handler = s.handler := rfl
@[simp] theorem afterSync_dropcnt (s : State) : (s.afterSync).dropcnt = s.dropcnt := rfl
@[simp] theorem afterSync_inp (s : State) : (s.afterSync).inp = s.inp := rfl
@[simp] theorem afterSync_out (s : State) : (s.afterSync).out = s.out := rfl

/-! ## `raise`: only `st` and `dropcnt` can change (`60_exceptions.md` R207) -/

@[simp] theorem raise_cfg (c : Cause) (s : State) : (raise c s).cfg = s.cfg := by cases c <;> rfl
@[simp] theorem raise_buf (c : Cause) (s : State) : (raise c s).buf = s.buf := by cases c <;> rfl
@[simp] theorem raise_cur (c : Cause) (s : State) : (raise c s).cur = s.cur := by cases c <;> rfl
@[simp] theorem raise_latest (c : Cause) (s : State) : (raise c s).latest = s.latest := by cases c <;> rfl
@[simp] theorem raise_handler (c : Cause) (s : State) : (raise c s).handler = s.handler := by cases c <;> rfl
@[simp] theorem raise_inp (c : Cause) (s : State) : (raise c s).inp = s.inp := by cases c <;> rfl
@[simp] theorem raise_out (c : Cause) (s : State) : (raise c s).out = s.out := by cases c <;> rfl

@[simp] theorem raise_headerMismatch (s : State) : raise .headerMismatch s = s := rfl
@[simp] theorem raise_transport (s : State) : raise .transport s = s := rfl
theorem raise_unrecognizedKind (s : State) :
    raise .unrecognizedKind s = { s with st := .awaitHeader } := rfl
theorem raise_overflow (s : State) : raise .overflow s = { s with st := .awaitHeader } := rfl
theorem raise_checksumMismatch (k : Kind) (s : State) :
    raise (.checksumMismatch k) s = { s with dropcnt := (s.dropcnt + 1) % 2 ^ s.cfg.dropcntW } := rfl

/-! ## `notify`: only `out` can change (`43_publish.md` R182) -/

@[simp] theorem notify_cfg (r : MeasurementRecord) (s : State) : (notify r s).1.cfg = s.cfg := by
  unfold notify; split <;> rfl
@[simp] theorem notify_st (r : MeasurementRecord) (s : State) : (notify r s).1.st = s.st := by
  unfold notify; split <;> rfl
@[simp] theorem notify_buf (r : MeasurementRecord) (s : State) : (notify r s).1.buf = s.buf := by
  unfold notify; split <;> rfl
@[simp] theorem notify_cur (r : MeasurementRecord) (s : State) : (notify r s).1.cur = s.cur := by
  unfold notify; split <;> rfl
@[simp] theorem notify_latest (r : MeasurementRecord) (s : State) : (notify r s).1.latest = s.latest := by
  unfold notify; split <;> rfl
@[simp] theorem notify_handler (r : MeasurementRecord) (s : State) : (notify r s).1.handler = s.handler := by
  unfold notify; split <;> rfl
@[simp] theorem notify_dropcnt (r : MeasurementRecord) (s : State) : (notify r s).1.dropcnt = s.dropcnt := by
  unfold notify; split <;> rfl
@[simp] theorem notify_inp (r : MeasurementRecord) (s : State) : (notify r s).1.inp = s.inp := by
  unfold notify; split <;> rfl

theorem notify_of_none {r : MeasurementRecord} {s : State} (h : s.handler = none) : notify r s = (s, false) := by
  simp [notify, h]

theorem notify_of_some {r : MeasurementRecord} {s : State} {hd : HandlerId} (h : s.handler = some hd) :
    notify r s = (s.emit (.invoked hd r), true) := by
  simp [notify, h]

end Sys2Proof.Machine
end

