-- ==== Sys2Proof/Laws/Ops.lean ====
section
/-! SUPPORT. What the shared operations can do: sequencing, the FrameBuffer's cells, the append. -/

namespace Sys2Proof.Machine

/-! ## Sequencing -/

@[simp] theorem andThen_next {α β : Type} (a : α) (f : α → Res β) : andThen (.next a) f = f a := rfl
@[simp] theorem andThen_fault {α β : Type} (r : Fault) (f : α → Res β) : andThen (.fault r) f = .fault r := rfl
@[simp] theorem andThen_refused {α β : Type} (r : Refusal) (f : α → Res β) : andThen (.refused r) f = .refused r := rfl

theorem andThen_eq_next {α β : Type} {o : Res α} {f : α → Res β} {b : β} :
    andThen o f = .next b ↔ ∃ a, o = .next a ∧ f a = .next b := by
  cases o <;> simp [andThen]

theorem andThen_assoc {α β γ : Type} (o : Res α) (f : α → Res β) (g : β → Res γ) :
    andThen (andThen o f) g = andThen o fun a => andThen (f a) g := by
  cases o <;> rfl

theorem answer_eq_next {α : Type} {o : Res (State × α)} {f : α → Output} {t : State} :
    answer o f = .next t ↔ ∃ s v, o = .next (s, v) ∧ t = s.emit (f v) := by
  rw [answer, andThen_eq_next]
  simp [eq_comm]

theorem answerPure_eq_next {α : Type} {s : State} {o : Res α} {f : α → Output} {t : State} :
    answerPure s o f = .next t ↔ ∃ v, o = .next v ∧ t = s.emit (f v) := by
  rw [answerPure, andThen_eq_next]
  simp [eq_comm]

/-! ## The FrameBuffer's cells -/

@[simp] theorem read_nil (a : Nat) : Memory.read [] a = none := rfl

theorem read_cons (x : Nat) (v : Byte) (m : Memory) (a : Nat) :
    Memory.read ((x, v) :: m) a = if a = x then some v else Memory.read m a := rfl

/-- Reading the written offset gives the written byte. -/
@[simp] theorem read_write_same (m : Memory) (a : Nat) (v : Byte) : (m.write a v).read a = some v := by
  induction m with
  | nil => simp [Memory.write, read_cons]
  | cons c m ih =>
    obtain ⟨x, w⟩ := c
    simp only [Memory.write]
    split
    · simp [read_cons]
    · split
      · simp [read_cons]
      · simp [read_cons, *]

/-- A write leaves every other offset alone. -/
theorem read_write_other {m : Memory} {a b : Nat} {v : Byte} (h : b ≠ a) : (m.write a v).read b = m.read b := by
  induction m with
  | nil => simp [Memory.write, read_cons, h]
  | cons c m ih =>
    obtain ⟨x, w⟩ := c
    simp only [Memory.write]
    split
    · simp [read_cons, h]
    · split
      · subst_vars; simp [read_cons, h]
      · simp [read_cons, ih]

theorem read_write (m : Memory) (a b : Nat) (v : Byte) :
    (m.write a v).read b = if b = a then some v else m.read b := by
  split
  · subst_vars; simp
  · exact read_write_other ‹_›

theorem risesFrom_write {x : Nat} {m : Memory} {a : Nat} {v : Byte} (hx : x < a) (h : m.risesFrom x = true) :
    (m.write a v).risesFrom x = true := by
  induction m generalizing x with
  | nil => simp [Memory.write, Memory.risesFrom, hx]
  | cons c m ih =>
    obtain ⟨y, w⟩ := c
    simp only [Memory.risesFrom, Bool.and_eq_true, decide_eq_true_eq] at h
    simp only [Memory.write]
    split
    · simp [Memory.risesFrom, *]
    · split
      · subst_vars; simp [Memory.risesFrom, h.2, hx]
      · simp [Memory.risesFrom, h.1, ih (by omega) h.2]

/-- A write keeps the canonical form. -/
theorem write_wf {m : Memory} (a : Nat) (v : Byte) (h : m.wf = true) : (m.write a v).wf = true := by
  cases m with
  | nil => rfl
  | cons c m =>
    obtain ⟨y, w⟩ := c
    simp only [Memory.wf] at h
    simp only [Memory.write]
    split
    · simp [Memory.wf, Memory.risesFrom, *]
    · split
      · subst_vars; simpa [Memory.wf] using h
      · simpa [Memory.wf] using risesFrom_write (by omega) h

/-- The memory of the reset state is in canonical form. -/
theorem reset_buf_wf : Memory.wf State.reset.buf = true := rfl

/-- A listed memory that rises from `x` holds nothing at or below `x`. -/
theorem read_of_risesFrom {x a : Nat} {m : Memory} (h : m.risesFrom x = true) (ha : a ≤ x) : m.read a = none := by
  induction m generalizing x with
  | nil => rfl
  | cons c m ih =>
    obtain ⟨y, w⟩ := c
    simp only [Memory.risesFrom, Bool.and_eq_true, decide_eq_true_eq] at h
    rw [read_cons, if_neg (by omega), ih h.2 (by omega)]

theorem readCell_eq_next {s : State} {a : Nat} {v : Byte} :
    readCell s a = .next v ↔ a < s.cfg.cap ∧ a < s.cur ∧ s.buf.read a = some v := by
  unfold readCell
  split
  · simp; omega
  · split
    · simp; omega
    · split <;> simp_all

/-- Whether `buf[a]` is readable, and what it holds, does not depend on `st`, `latest`, `handler`, `dropcnt`, `inp` or `out`. -/
theorem readCell_congr {s t : State} {a : Nat} (hc : t.cfg = s.cfg) (hb : t.buf = s.buf) (hu : t.cur = s.cur) :
    readCell t a = readCell s a := by
  simp [readCell, hc, hb, hu]

theorem append_eq_next {b : Byte} {s t : State} :
    append b s = .next t ↔ s.cur < s.cfg.cap ∧ t = { s with buf := s.buf.write s.cur b, cur := s.cur + 1 } := by
  unfold append; split <;> simp [*, eq_comm]

theorem append_of_lt {b : Byte} {s : State} (h : s.cur < s.cfg.cap) :
    append b s = .next { s with buf := s.buf.write s.cur b, cur := s.cur + 1 } := by
  simp [append, h]

end Sys2Proof.Machine
end

