-- ==== Sys2Proof/Laws/Operands.lean ====
section
/-! SUPPORT. What the reads of a byte array operand can do. -/

namespace Sys2Proof.Machine

@[simp] theorem readArg_buffer (s : State) (a : Nat) : readArg s .buffer a = readCell s a := rfl

theorem readArg_bytes {s : State} {bs : List Byte} {a : Nat} (h : a < bs.length) :
    readArg s (.bytes bs) a = .next bs[a] := by
  simp [readArg, List.getElem?_eq_getElem h]

/-- A range is read when each of its bytes is. -/
theorem readRange_of {s : State} {B : ByteArg} {f : Nat → Byte} {a n : Nat}
    (h : ∀ x, a ≤ x → x < a + n → readArg s B x = .next (f x)) :
    readRange s B a n = .next ((List.range' a n).map f) := by
  induction n generalizing a with
  | zero => rfl
  | succ n ih =>
    rw [readRange, h a (by omega) (by omega), andThen_next, ih fun x h1 h2 => h x (by omega) (by omega)]
    rfl

/-- What a successful range read gives: as many bytes as asked for, each the byte read at its offset. -/
theorem readRange_eq_next {s : State} {B : ByteArg} {a n : Nat} {bs : List Byte} :
    readRange s B a n = .next bs ↔ bs.length = n ∧ ∀ i (h : i < bs.length), readArg s B (a + i) = .next bs[i] := by
  induction n generalizing a bs with
  | zero =>
    constructor
    · rintro h
      cases h
      simp
    · rintro ⟨h, -⟩
      rw [List.length_eq_zero_iff] at h
      subst h
      rfl
  | succ n ih =>
    simp only [readRange, andThen_eq_next, ih]
    constructor
    · rintro ⟨v, hv, vs, ⟨hl, hr⟩, h⟩
      cases h
      refine ⟨by simp [hl], fun i h => ?_⟩
      cases i with
      | zero => simpa using hv
      | succ i => simpa [Nat.add_assoc, Nat.add_comm 1] using hr i (by simpa using h)
    · rintro ⟨hl, hr⟩
      cases bs with
      | nil => simp at hl
      | cons v vs =>
        refine ⟨v, hr 0 (by simp), vs, ⟨by simpa using hl, fun i h => ?_⟩, rfl⟩
        have := hr (i + 1) (by simpa using h)
        rw [← Nat.add_assoc, Nat.add_right_comm a i 1] at this
        exact this

/-- The buffer holds the bytes exactly when the range read of the block gives them. -/
theorem readRange_buffer_holds {s : State} {bs : List Byte} {n : Nat} (hn : bs.length = n) :
    readRange s .buffer 0 n = .next bs ↔ s.holds bs := by
  simp [readRange_eq_next, hn, State.holds]

/-- Reading in the buffer depends on `cfg`, `buf` and `cur` only. -/
theorem readRange_congr {s t : State} {B : ByteArg} (hc : t.cfg = s.cfg) (hb : t.buf = s.buf) (hu : t.cur = s.cur) (a n : Nat) :
    readRange t B a n = readRange s B a n := by
  induction n generalizing a with
  | zero => rfl
  | succ n ih =>
    have h : readArg t B a = readArg s B a := by cases B <;> simp [readArg, readCell_congr hc hb hu]
    simp [readRange, h, ih]

end Sys2Proof.Machine
end

