-- ==== Sys2Proof/Laws/Checksum.lean ====
section
/-! SUPPORT. The checksum: what CRC8 and VALIDATE answer. -/

namespace Sys2Proof.Machine

theorem crcUpd_eq (cfg : Config) (c d : Byte) : crcUpd cfg c d = cfg.crcTable[(c ^^^ d).toNat] := by
  have h : (c ^^^ d) &&& 0xFF = c ^^^ d := BitVec.and_allOnes (x := c ^^^ d)
  simp only [crcUpd, h]

@[simp] theorem crcOf_nil (cfg : Config) : crcOf cfg [] = cfg.crcInit := rfl

/-- The checksum after one more byte (`41_checksum.md` R142). -/
theorem crcOf_concat (cfg : Config) (bs : List Byte) (d : Byte) :
    crcOf cfg (bs ++ [d]) = crcUpd cfg (crcOf cfg bs) d := by
  simp [crcOf]

/-- CRC8 of a range answers the checksum of the bytes the range read gives. -/
theorem crcRange_of {s : State} {B : ByteArg} {lo : Nat} {hi : Int} {bs : List Byte}
    (h : readRange s B lo (hi + 1 - lo).toNat = .next bs) : crcRange s B lo hi = .next (crcOf s.cfg bs) := by
  rw [crcRange, h, andThen_next]

/-- VALIDATE compares the last of the `n` bytes with the checksum of the others (`41_checksum.md` R140). -/
theorem validateArg_of {s : State} {B : ByteArg} {n : Nat} {bs : List Byte} (hn : n ≠ 0)
    (h : readRange s B 0 n = .next bs) :
    validateArg s B n = .next (decide (ValidBytes s.cfg bs)) := by
  obtain ⟨m, rfl⟩ := Nat.exists_eq_succ_of_ne_zero hn
  obtain ⟨hl, hr⟩ := readRange_eq_next.1 h
  obtain ⟨init, last, rfl⟩ : ∃ init last, bs = init ++ [last] := by
    rcases List.eq_nil_or_concat bs with rfl | ⟨init, last, rfl⟩
    · simp at hl
    · exact ⟨init, last, by simp⟩
  have hm : init.length = m := by simpa using hl
  have hinit : readRange s B 0 m = .next init := by
    refine readRange_eq_next.2 ⟨hm, fun i hi => ?_⟩
    rw [hr i (by simp; omega), List.getElem_append_left hi]
  have hlast : readArg s B m = .next last := by
    subst hm
    simpa using hr init.length (by simp)
  have hc : crcRange s B 0 (((m + 1 : Nat) : Int) - 2) = .next (crcOf s.cfg init) := by
    refine crcRange_of ?_
    rw [← hinit]
    congr 1
    omega
  rw [validateArg, if_neg hn, hc, andThen_next, Nat.succ_sub_one, hlast, andThen_next]
  simp [ValidBytes, eq_comm]

end Sys2Proof.Machine
end

