-- ==== Sys2Proof/Laws/Codec.lean ====
section
/-! SUPPORT. Small facts of the encodings: 16-bit assembly, lengths of the encoded frames. -/

namespace Sys2Proof

/-- `20_memory.md` R53: `lo + 256 × hi`. -/
theorem le16_toNat (lo hi : Byte) : (le16 lo hi).toNat = lo.toNat + 256 * hi.toNat := by
  rw [le16, BitVec.toNat_append, ← Nat.shiftLeft_add_eq_or_of_lt lo.isLt, Nat.shiftLeft_eq]
  omega

/-- `20_memory.md` R54: the byte at the lower offset is `v mod 256`. -/
theorem loByte_toNat (v : Half) : (loByte v).toNat = v.toNat % 256 := by
  simp [loByte, BitVec.extractLsb'_toNat]

/-- `20_memory.md` R54: the byte at the higher offset is `v div 256`. -/
theorem hiByte_toNat (v : Half) : (hiByte v).toNat = v.toNat / 256 := by
  have := v.isLt
  rw [hiByte, BitVec.extractLsb'_toNat, Nat.shiftRight_eq_div_pow]
  omega

@[simp] theorem loByte_le16 (lo hi : Byte) : loByte (le16 lo hi) = lo := by
  refine BitVec.eq_of_toNat_eq ?_
  have := lo.isLt
  rw [loByte_toNat, le16_toNat]
  omega

@[simp] theorem hiByte_le16 (lo hi : Byte) : hiByte (le16 lo hi) = hi := by
  refine BitVec.eq_of_toNat_eq ?_
  have := lo.isLt
  rw [hiByte_toNat, le16_toNat]
  omega

@[simp] theorem le16_lo_hi (v : Half) : le16 (loByte v) (hiByte v) = v := by
  refine BitVec.eq_of_toNat_eq ?_
  rw [le16_toNat, loByte_toNat, hiByte_toNat]
  omega

@[simp] theorem pointBytes_length (p : Point) : p.toBytes.length = 3 := rfl

@[simp] theorem recordBytes_length (r : MeasurementRecord) : r.toBytes.length = 47 := by
  simp [MeasurementRecord.toBytes, List.length_flatMap]

@[simp] theorem shortBytes_length (f : ShortFrame) : f.toBytes.length = 12 := by
  simp [ShortFrame.toBytes]

theorem byteAt_of_lt {bs : List Byte} {x : Nat} (h : x < bs.length) : byteAt bs x = bs[x] := by
  simp [byteAt, h]

end Sys2Proof
end

