-- ==== Sys2Proof/Laws/Feed.lean ====
section
/-! SUPPORT. Everything a micro-operation and the rest of a FEED can do, said once. -/

namespace Sys2Proof.Machine

/-- The decoder state after a micro-operation. -/
def microState (u : MicroOp) (st : DecoderState) : DecoderState :=
  match u with
  | .sync => .awaitKind
  | .skip => st
  | .kindM => .accumulating .measurement
  | .kindH => .accumulating .health
  | .kindI => .accumulating .manufacturerInfo
  | .abandon => .awaitHeader
  | .ovf => .awaitHeader
  | .acc => st
  | .finM => .awaitHeader
  | .finH => .awaitHeader
  | .finI => .awaitHeader

/-- The event of a micro-operation. -/
def microEvent (u : MicroOp) : Event :=
  match u with
  | .sync => .none
  | .skip => .none
  | .kindM => .none
  | .kindH => .none
  | .kindI => .none
  | .abandon => .none
  | .ovf => .none
  | .acc => .none
  | .finM => .frameReady .measurement
  | .finH => .frameReady .health
  | .finI => .frameReady .manufacturerInfo

/-- A micro-operation stores its byte at one offset or at none, moves the cursor past it, sets `st` and gives its event; it
faults only where that offset is outside the buffer. -/
theorem microOp_eq (u : MicroOp) (b : Byte) (s : State) :
    microOp u b s =
      match storeOffset u s.cur with
      | none => .next ({ s with st := microState u s.st }, microEvent u)
      | some a =>
        if a < s.cfg.cap then
          .next ({ s with st := microState u s.st, buf := s.buf.write a b, cur := a + 1 }, microEvent u)
        else .fault (.outsideBuffer a) := by
  cases u <;>
    simp only [microOp, syncOp, skipOp, kindOp, abandonOp, accOp, finOp, ovfOp, raise, append, storeOffset] <;>
    first
      | rfl
      | (split <;> rfl)

/-- What a micro-operation that answers has done. -/
theorem microOp_eq_next {u : MicroOp} {b : Byte} {s t : State} {e : Event} :
    microOp u b s = .next (t, e) ↔
      e = microEvent u ∧
        ((storeOffset u s.cur = none ∧ t = { s with st := microState u s.st }) ∨
          ∃ a, storeOffset u s.cur = some a ∧ a < s.cfg.cap ∧
            t = { s with st := microState u s.st, buf := s.buf.write a b, cur := a + 1 }) := by
  rw [microOp_eq]
  cases storeOffset u s.cur with
  | none => simp [eq_comm, and_comm]
  | some a =>
    simp only [Option.some.injEq, reduceCtorEq, false_and, false_or, exists_eq_left']
    split <;> simp [*, eq_comm, and_comm]

/-- A micro-operation run on its own does what FEED does with it, and its event is the output. -/
theorem runSelected_of {u : MicroOp} {b : Byte} {s : State} (h : select s.cfg s.st s.cur b = some u) :
    runSelected u b s = answer (microOp u b s) .event := by
  simp [runSelected, h]

theorem runSelected_eq_next {u : MicroOp} {b : Byte} {s t : State} :
    runSelected u b s = .next t ↔
      select s.cfg s.st s.cur b = some u ∧ ∃ m e, microOp u b s = .next (m, e) ∧ t = m.emit (.event e) := by
  unfold runSelected
  split <;> simp [answer_eq_next, *]

/-- Each micro-operation's constructor runs that micro-operation. -/
theorem exec_instr (u : MicroOp) (b : Byte) (s : State) : exec (u.instr b) s = runSelected u b s := by
  cases u <;> rfl

@[simp] theorem exec_feed (b : Byte) (s : State) : exec (.feed b) s = execFeed b s := rfl
@[simp] theorem exec_step (e : Event) (s : State) : exec (.step e) s = execStep e s := rfl

theorem feedEvent_eq_next {b : Byte} {s : State} {p : State × Event} :
    feedEvent b s = .next p ↔ ∃ u, select s.cfg s.st s.cur b = some u ∧ microOp u b s = .next p := by
  unfold feedEvent
  split <;> simp_all

theorem execFeed_eq_next {b : Byte} {s t : State} :
    execFeed b s = .next t ↔
      ∃ u m e, select s.cfg s.st s.cur b = some u ∧ microOp u b s = .next (m, e) ∧ execStep e m = .next t := by
  rw [execFeed, andThen_eq_next]
  constructor
  · rintro ⟨⟨m, e⟩, h, ht⟩
    obtain ⟨u, hu, hm⟩ := feedEvent_eq_next.1 h
    exact ⟨u, m, e, hu, hm, ht⟩
  · rintro ⟨u, m, e, hu, hm, ht⟩
    exact ⟨(m, e), feedEvent_eq_next.2 ⟨u, hu, hm⟩, ht⟩

/-- FEED of a byte whose micro-operation answers is STEP on its event. -/
theorem execFeed_of {b : Byte} {s m : State} {e : Event} {u : MicroOp} (hu : select s.cfg s.st s.cur b = some u)
    (hm : microOp u b s = .next (m, e)) : execFeed b s = execStep e m := by
  simp [execFeed, feedEvent, hu, hm, execStep]

/-! ## STEP -/

@[simp] theorem execStep_none (s : State) : execStep .none s = .next (s.emit (.report quietReport)) := rfl

theorem recordOf_congr {f g : Nat → Byte} (h : ∀ x, x < 47 → f x = g x) : recordOf f = recordOf g := by
  have hp : (Vector.ofFn fun i : Fin 12 => pointOf f i.val) = Vector.ofFn fun i : Fin 12 => pointOf g i.val := by
    congr 1
    funext i
    have := i.isLt
    simp [pointOf, h (6 + 3 * i.val) (by omega), h (7 + 3 * i.val) (by omega), h (8 + 3 * i.val) (by omega)]
  simp only [recordOf, hp]
  simp [h]

/-- DECODE answers the record of the first 47 bytes. -/
theorem decodeArg_of {s : State} {B : ByteArg} {bs : List Byte} {n : Nat} (hn : 47 ≤ n)
    (h : readRange s B 0 n = .next bs) : decodeArg s B = .next (recordOf (byteAt bs)) := by
  obtain ⟨hl, hr⟩ := readRange_eq_next.1 h
  have h47 : readRange s B 0 47 = .next (bs.take 47) := by
    refine readRange_eq_next.2 ⟨by simp; omega, fun i hi => ?_⟩
    have hi' : i < bs.length := by simp at hi; omega
    rw [hr i hi', List.getElem_take]
  have hc : recordOf (byteAt (bs.take 47)) = recordOf (byteAt bs) := by
    refine recordOf_congr fun x hx => ?_
    simp [byteAt, List.getD_eq_getElem?_getD, hx]
  simp only [decodeArg, formatMBytes, nPoints, pointSize, h47, andThen_next, hc]

/-- STEP on a completed frame whose checksum is wrong (`60_exceptions.md` R204). -/
theorem execStep_invalid {s : State} {k : Kind} {bs : List Byte} (hl : bs.length = s.cfg.lenOf k) (hn : bs ≠ [])
    (h : s.holds bs) (hv : ¬ ValidBytes s.cfg bs) :
    execStep (.frameReady k) s =
      .next ((raise (.checksumMismatch k) s).emit (.report (mismatchReport k))) := by
  have hr := (readRange_buffer_holds hl).2 h
  have h0 : s.cfg.lenOf k ≠ 0 := by rw [← hl]; simpa using hn
  simp [execStep, answer, afterEvent, validateArg_of h0 hr, hv]

/-- STEP on a completed short frame whose checksum is right (`43_publish.md` R185). -/
theorem execStep_pass {s : State} {k : ShortKind} {bs : List Byte} (hl : bs.length = s.cfg.lenOf k.kind) (hn : bs ≠ [])
    (h : s.holds bs) (hv : ValidBytes s.cfg bs) :
    execStep (.frameReady k.kind) s = .next (s.emit (.report (passReport k))) := by
  have hr := (readRange_buffer_holds hl).2 h
  have h0 : s.cfg.lenOf k.kind ≠ 0 := by rw [← hl]; simpa using hn
  have hok : validFrame k.kind s = .next (s, passReport k) := by cases k <;> rfl
  simp only [execStep, answer, afterEvent, validateArg_of h0 hr, andThen_next, decide_eq_true hv, if_true, hok]

/-- STEP on a completed Measurement frame whose checksum is right (`43_publish.md` R180 to R182). -/
theorem execStep_publish {s : State} {bs : List Byte} (hl : bs.length = s.cfg.lenMeas) (hn : 47 ≤ bs.length)
    (h : s.holds bs) (hv : ValidBytes s.cfg bs) :
    execStep (.frameReady .measurement) s =
      .next ((notify (recordOf (byteAt bs)) (publish (recordOf (byteAt bs)) s)).1.emit
        (.report (publishReport (recordOf (byteAt bs))
          (notify (recordOf (byteAt bs)) (publish (recordOf (byteAt bs)) s)).2))) := by
  have hr := (readRange_buffer_holds hl).2 h
  have h0 : s.cfg.lenOf .measurement ≠ 0 := by simp only [Config.lenOf]; omega
  have hr' : readRange s .buffer 0 (s.cfg.lenOf .measurement) = .next bs := hr
  have hd := decodeArg_of (by omega : 47 ≤ s.cfg.lenMeas) hr
  simp only [execStep, answer, afterEvent, validateArg_of h0 hr', andThen_next, decide_eq_true hv, if_true, validFrame,
    publishFrame, hd]

/-- What STEP that answers has done: only `latest`, `dropcnt` and `out` can have changed. -/
theorem execStep_cases {e : Event} {s t : State} (h : execStep e s = .next t) :
    (∃ r, t = s.emit (.report r) ∧ r.published = none) ∨
      (∃ k, t = (raise (.checksumMismatch k) s).emit (.report (mismatchReport k))) ∨
      ∃ r, t = (notify r (publish r s)).1.emit (.report (publishReport r (notify r (publish r s)).2)) := by
  obtain ⟨m, v, hm, rfl⟩ := answer_eq_next.1 h
  cases e with
  | none =>
    cases hm
    exact .inl ⟨_, rfl, rfl⟩
  | frameReady k =>
    obtain ⟨ok, -, hok⟩ := andThen_eq_next.1 hm
    cases ok with
    | false =>
      cases hok
      exact .inr (.inl ⟨k, rfl⟩)
    | true =>
      cases k with
      | measurement =>
        obtain ⟨r, -, hr⟩ := andThen_eq_next.1 hok
        cases hr
        exact .inr (.inr ⟨r, rfl⟩)
      | health =>
        cases hok
        exact .inl ⟨_, rfl, rfl⟩
      | manufacturerInfo =>
        cases hok
        exact .inl ⟨_, rfl, rfl⟩

/-! ## Bursts -/

@[simp] theorem feedAll_nil (s : State) : feedAll [] s = .next s := rfl

theorem feedAll_cons (b : Byte) (bs : List Byte) (s : State) :
    feedAll (b :: bs) s = andThen (execFeed b s) fun t => feedAll bs t := rfl

theorem feedAll_append (as bs : List Byte) (s : State) :
    feedAll (as ++ bs) s = andThen (feedAll as s) fun t => feedAll bs t := by
  induction as generalizing s with
  | nil => rfl
  | cons a as ih => simp [feedAll_cons, andThen_assoc, ih]

/-! ## FEED does not look at the pending operations -/

/-- The state with other pending operations. -/
def withInp (l : List Op) (s : State) : State := { s with inp := l }

theorem microOp_withInp (u : MicroOp) (b : Byte) (l : List Op) (s : State) :
    microOp u b (withInp l s) = andThen (microOp u b s) fun p => .next (withInp l p.1, p.2) := by
  rw [microOp_eq, microOp_eq]
  cases h : storeOffset u s.cur with
  | none => simp [withInp, h]
  | some a =>
    by_cases hc : a < s.cfg.cap <;> simp [withInp, h, hc]

theorem raise_withInp (c : Cause) (l : List Op) (s : State) : raise c (withInp l s) = withInp l (raise c s) := by
  cases c <;> rfl

theorem publishFrame_withInp (l : List Op) (s : State) :
    publishFrame (withInp l s) = andThen (publishFrame s) fun p => .next (withInp l p.1, p.2) := by
  have hr : readRange (withInp l s) .buffer 0 formatMBytes = readRange s .buffer 0 formatMBytes :=
    readRange_congr rfl rfl rfl 0 _
  simp only [publishFrame, decodeArg, hr]
  cases readRange s .buffer 0 formatMBytes with
  | fault r => rfl
  | refused r => rfl
  | next bs =>
    cases h : s.handler <;> simp [notify, publish, withInp, h, State.emit]

theorem validateArg_withInp (l : List Op) (s : State) (n : Nat) :
    validateArg (withInp l s) .buffer n = validateArg s .buffer n := by
  have hr : ∀ a k, readRange (withInp l s) .buffer a k = readRange s .buffer a k := readRange_congr rfl rfl rfl
  have ha : readArg (withInp l s) .buffer (n - 1) = readArg s .buffer (n - 1) := rfl
  simp only [validateArg, crcRange, hr, ha]
  rfl

theorem afterEvent_withInp (e : Event) (l : List Op) (s : State) :
    afterEvent e (withInp l s) = andThen (afterEvent e s) fun p => .next (withInp l p.1, p.2) := by
  cases e with
  | none => rfl
  | frameReady k =>
    have hv : validateArg (withInp l s) .buffer ((withInp l s).cfg.lenOf k) = validateArg s .buffer (s.cfg.lenOf k) :=
      validateArg_withInp l s _
    simp only [afterEvent, hv]
    cases validateArg s .buffer (s.cfg.lenOf k) with
    | fault r => rfl
    | refused r => rfl
    | next ok =>
      cases ok with
      | false => simp [raise_withInp]
      | true => cases k <;> simp [validFrame, publishFrame_withInp]

/-- FEED with other pending operations is FEED, with those pending afterwards. -/
theorem execFeed_withInp (b : Byte) (l : List Op) (s : State) :
    execFeed b (withInp l s) = andThen (execFeed b s) fun t => .next (withInp l t) := by
  have hs : select (withInp l s).cfg (withInp l s).st (withInp l s).cur b = select s.cfg s.st s.cur b := rfl
  simp only [execFeed, feedEvent, hs]
  cases select s.cfg s.st s.cur b with
  | none => rfl
  | some u =>
    simp only [microOp_withInp]
    cases microOp u b s with
    | fault r => rfl
    | refused r => rfl
    | next p =>
      simp only [andThen_next, answer, afterEvent_withInp]
      cases afterEvent p.2 p.1 <;> rfl

end Sys2Proof.Machine
end

