-- ==== Sys2Proof/Laws/PerInstr.lean ====
section
/-! SUPPORT. Facts of every instruction as syntax: how many bytes its encoding has. -/

namespace Sys2Proof.Laws.EncodedBytes

/-- How many bytes encode an instruction: one for a micro-operation, the format's for a frame, none otherwise. -/
def bytesOf : Instr → Nat
  | .reset => 0
  | .feed _ => 0
  | .latest => 0
  | .register _ => 0
  | .sync _ => 1
  | .skip _ => 1
  | .kindM _ => 1
  | .kindH _ => 1
  | .kindI _ => 1
  | .abandon _ => 1
  | .ovf _ => 1
  | .acc _ => 1
  | .finM _ => 1
  | .finH _ => 1
  | .finI _ => 1
  | .validate _ _ => 0
  | .crc8Upd _ _ => 0
  | .crc8 _ _ _ => 0
  | .get8 _ _ => 0
  | .get16le _ _ => 0
  | .decode _ => 0
  | .step _ => 0
  | .publish _ => 0
  | .notify _ => 0
  | .pass _ => 0
  | .frameM _ => 47
  | .frameH _ => 12
  | .frameI _ => 12

/-- The encoding, where there is one, has that many bytes; where there is none, the row has no bit pattern (R97). -/
def Statement (i : Instr) : Prop := ((encode i).getD []).length = bytesOf i

theorem reset : Statement (.reset) := rfl
theorem feed (b : Byte) : Statement (.feed b) := rfl
theorem latest : Statement (.latest) := rfl
theorem register (h : HandlerId) : Statement (.register h) := rfl
theorem sync (b : Byte) : Statement (.sync b) := rfl
theorem skip (b : Byte) : Statement (.skip b) := rfl
theorem kindM (b : Byte) : Statement (.kindM b) := rfl
theorem kindH (b : Byte) : Statement (.kindH b) := rfl
theorem kindI (b : Byte) : Statement (.kindI b) := rfl
theorem abandon (b : Byte) : Statement (.abandon b) := rfl
theorem ovf (b : Byte) : Statement (.ovf b) := rfl
theorem acc (b : Byte) : Statement (.acc b) := rfl
theorem finM (b : Byte) : Statement (.finM b) := rfl
theorem finH (b : Byte) : Statement (.finH b) := rfl
theorem finI (b : Byte) : Statement (.finI b) := rfl
theorem validate (B : ByteArg) (n : Nat) : Statement (.validate B n) := rfl
theorem crc8Upd (c d : Byte) : Statement (.crc8Upd c d) := rfl
theorem crc8 (B : ByteArg) (lo : Nat) (hi : Int) : Statement (.crc8 B lo hi) := rfl
theorem get8 (B : ByteArg) (a : Nat) : Statement (.get8 B a) := rfl
theorem get16le (B : ByteArg) (a : Nat) : Statement (.get16le B a) := rfl
theorem decode (B : ByteArg) : Statement (.decode B) := rfl
theorem step (e : Event) : Statement (.step e) := rfl
theorem publish (r : MeasurementRecord) : Statement (.publish r) := rfl
theorem notify (r : MeasurementRecord) : Statement (.notify r) := rfl
theorem pass (k : ShortKind) : Statement (.pass k) := rfl
theorem frameM (r : MeasurementRecord) : Statement (.frameM r) := recordBytes_length r
theorem frameH (f : ShortFrame) : Statement (.frameH f) := shortBytes_length f
theorem frameI (f : ShortFrame) : Statement (.frameI f) := shortBytes_length f

end Sys2Proof.Laws.EncodedBytes
end

