-- ==== Sys2Proof/Tests/Slice0.lean ====
section
/-! SUPPORT. Tests on fixed values, each from `spec/` (the vector or rule is named), and for every obligation that has hypotheses a
concrete state and operands that meet them all. -/

namespace Sys2Proof.Machine.Tests

/- One theorem after another: the waiting threads of many kernel evaluations at once reserve too much memory. -/
set_option Elab.async false

/-! ## Helpers -/

/-- What a next state shows. -/
def observe {α : Type} (o : Res State) (f : State → α) : Option α :=
  match o with
  | .next s => some (f s)
  | .fault _ => none
  | .refused _ => none

/-- The refusal of an outcome. -/
def refusalOf {α : Type} (o : Res α) : Option Refusal :=
  match o with
  | .next _ => none
  | .fault _ => none
  | .refused r => some r

/-- The fault of an outcome. -/
def faultOf {α : Type} (o : Res α) : Option Fault :=
  match o with
  | .next _ => none
  | .fault r => some r
  | .refused _ => none

theorem next_of_observe {α : Type} {o : Res State} {f : State → α} {v : α} (h : observe o f = some v) :
    ∃ t, o = .next t ∧ f t = v := by
  cases o with
  | next t => exact ⟨t, rfl, by simpa [observe] using h⟩
  | fault r => simp [observe] at h
  | refused r => simp [observe] at h

/-- A buffer that lists `bs` from offset `a` on. -/
def cellsFrom : Nat → List Byte → Memory
  | _, [] => []
  | a, b :: bs => (a, b) :: cellsFrom (a + 1) bs

/-- The reset state with the bytes `bs` appended and the decoder state `st`. -/
def stateWith (st : DecoderState) (bs : List Byte) : State :=
  { State.reset with st := st, buf := cellsFrom 0 bs, cur := bs.length }

/-- The state of V-F9: the hypothetical capacity 8, full. -/
def fullState : State :=
  { stateWith (.accumulating .measurement) [0x54, 0x2C, 0, 0, 0, 0, 0, 0] with cfg := { Config.default with cap := 8 } }

/-- Frame A (V-D1). -/
def frameA : List Byte :=
  [0x54, 0x2C, 0x34, 0x12, 0x78, 0x56, 0xE8, 0x03, 0xC8, 0x4C, 0x04, 0xC9, 0xB0, 0x04, 0xCA, 0x14, 0x05, 0xCB] ++
  [0x78, 0x05, 0xCC, 0xDC, 0x05, 0xCD, 0x40, 0x06, 0xCE, 0xA4, 0x06, 0xCF, 0x08, 0x07, 0xD0, 0x6C, 0x07, 0xD1] ++
  [0xD0, 0x07, 0xD2, 0x34, 0x08, 0xD3, 0xBC, 0x9A, 0xF0, 0xDE, 0x49]

/-- The record of frame A, field by field as V-D1 lists them. -/
def recordA : MeasurementRecord where
  header := 0x54
  verLen := 0x2C
  speed := 4660
  startAngle := 22136
  points := #v[⟨1000, 200⟩, ⟨1100, 201⟩, ⟨1200, 202⟩, ⟨1300, 203⟩, ⟨1400, 204⟩, ⟨1500, 205⟩, ⟨1600, 206⟩, ⟨1700, 207⟩,
    ⟨1800, 208⟩, ⟨1900, 209⟩, ⟨2000, 210⟩, ⟨2100, 211⟩]
  endAngle := 39612
  timestamp := 57072
  crc := 0x49

/-- The record of frame Z (V-D3). -/
def recordZ : MeasurementRecord where
  header := 0x54
  verLen := 0x2C
  speed := 0
  startAngle := 0
  points := Vector.replicate 12 ⟨0, 0⟩
  endAngle := 0
  timestamp := 0
  crc := 0xBE

/-- The Health frame of V-S4. -/
def healthFrame : ShortFrame where
  header := 0x54
  marker := 0xE0
  body := #v[1, 2, 3, 4, 5, 6, 7, 8, 9]
  crc := 0xF3

/-- The ManufacturerInfo frame of V-S4b. -/
def manufFrame : ShortFrame where
  header := 0x54
  marker := 0x0F
  body := #v[0x11, 0x22, 0x33, 0x44, 0x55, 0x66, 0x77, 0x88, 0x99]
  crc := 0xB3

/-- All of frame A in the buffer, before STEP. -/
def filledA : State := stateWith .awaitHeader frameA

/-- One byte before the end of frame A. -/
def almostA : State := stateWith (.accumulating .measurement) (frameA.take 46)

/-- The reset state with the handler 7 registered. -/
def withHandler : State := { State.reset with handler := some ⟨7⟩ }

/-! ## WellFormed: an ill-formed term for each check -/

theorem test_wf_sync : (Instr.sync 0x55).wf Config.default = false := by decide
theorem test_wf_skip : (Instr.skip 0x54).wf Config.default = false := by decide
theorem test_wf_kindM : (Instr.kindM 0xE0).wf Config.default = false := by decide
theorem test_wf_kindH : (Instr.kindH 0x2C).wf Config.default = false := by decide
theorem test_wf_kindI : (Instr.kindI 0x2C).wf Config.default = false := by decide
theorem test_wf_abandon : (Instr.abandon 0x0F).wf Config.default = false := by decide
theorem test_wf_validate_length : (Instr.validate .buffer 0).wf Config.default = false := by decide
theorem test_wf_validate_cover : (Instr.validate (.bytes [1, 2]) 3).wf Config.default = false := by decide
theorem test_wf_crc8 : (Instr.crc8 (.bytes [1]) 0 1).wf Config.default = false := by decide
theorem test_wf_get8 : (Instr.get8 .buffer 128).wf Config.default = false := by decide
theorem test_wf_get16le : (Instr.get16le .buffer 127).wf Config.default = false := by decide
theorem test_wf_decode : (Instr.decode (.bytes (List.replicate 46 0))).wf Config.default = false := by decide
theorem test_wf_frameM : (Instr.frameM { recordZ with verLen := 0x2D }).wf Config.default = false := by decide
theorem test_wf_frameH : (Instr.frameH { healthFrame with header := 0x55 }).wf Config.default = false := by decide
theorem test_wf_frameI : (Instr.frameI healthFrame).wf Config.default = false := by decide

/-- `00_scope.md` R8 (D19): two equal markers are no configuration. -/
theorem test_config_equal_markers : ¬ Config.wf { Config.default with manufMarker := 0xE0 } := by decide
/-- `00_scope.md` R9 (U12): a frame of two bytes. -/
theorem test_config_short_length : ¬ Config.wf { Config.default with lenHealth := 2 } := by decide
/-- `00_scope.md` R9: a frame longer than the buffer. -/
theorem test_config_long_length : ¬ Config.wf { Config.default with lenManuf := 129 } := by decide
/-- `00_scope.md` R8: the capacity is at least 128. -/
theorem test_config_small_capacity : ¬ Config.wf { Config.default with cap := 127 } := by decide
/-- U11: a marker may equal HEADER. -/
theorem test_config_marker_may_be_header : Config.wf { Config.default with manufMarker := 0x54 } := by decide

/-! ## Decode: words written out from `30_encoding.md` R82 to R88 -/

theorem test_word_sync : decodeTableWord 8 0b01010100 = some (.sync 0b01010100) := by decide
theorem test_word_kindM : decodeTableWord 8 0b00101100 = some (.kindM 0b00101100) := by decide
theorem test_word_kindH : decodeTableWord 8 0b11100000 = some (.kindH 0b11100000) := by decide
theorem test_word_kindI : decodeTableWord 8 0b00001111 = some (.kindI 0b00001111) := by decide
theorem test_word_skip : decodeTableWord 8 0b00000000 = some (.skip 0) := by decide
theorem test_word_none : decodeTableWord 0 0 = none := by decide

/-- Bits 7:0 are the header byte, bits 15:8 the marker. -/
theorem test_word_frameM :
    (decodeTableWord 16 0b0010110001010100).map encode = some (some ([0x54, 0x2C] ++ List.replicate 45 0)) := by
  decide +kernel
theorem test_word_frameH :
    decodeTableWord 16 0b1110000001010100 = some (.frameH ⟨0x54, 0xE0, Vector.replicate 9 0, 0⟩) := by decide +kernel
theorem test_word_frameI :
    decodeTableWord 16 0b0000111101010100 = some (.frameI ⟨0x54, 0x0F, Vector.replicate 9 0, 0⟩) := by decide +kernel

/-- The instruction a byte decodes to, if any. -/
def byteInstr (c : Config) (st : DecoderState) (cur : Nat) (b : Byte) : Option Instr :=
  match decodeByte c st cur b with
  | .ok i => some i
  | .error _ => none

theorem test_byte_skip : byteInstr .default .awaitHeader 47 0x2C = some (.skip 0x2C) := by decide
theorem test_byte_abandon : byteInstr .default .awaitKind 1 0x54 = some (.abandon 0x54) := by decide
theorem test_byte_acc : byteInstr .default (.accumulating .measurement) 45 0x54 = some (.acc 0x54) := by decide
theorem test_byte_finM : byteInstr .default (.accumulating .measurement) 46 0x49 = some (.finM 0x49) := by decide
theorem test_byte_finH : byteInstr .default (.accumulating .health) 11 0xF3 = some (.finH 0xF3) := by decide
theorem test_byte_finI : byteInstr .default (.accumulating .manufacturerInfo) 11 0xB3 = some (.finI 0xB3) := by decide
theorem test_byte_ovf : byteInstr { Config.default with cap := 8 } (.accumulating .measurement) 8 0x11 = some (.ovf 0x11) := by
  decide
theorem test_byte_no_row : byteInstr .default (.accumulating .health) 12 0x11 = none := by decide

/-- The instruction a frame decodes to, if any, and what follows it. -/
def frameInstr (bs : List Byte) : Option (Instr × List Byte) :=
  match decodeFrame .default bs with
  | .ok p => some p
  | .error _ => none

/-- V-D1, followed by one more byte. -/
theorem test_frame_A : frameInstr (frameA ++ [0xAA]) = some (.frameM recordA, [0xAA]) := by decide +kernel
theorem test_frame_health : frameInstr [0x54, 0xE0, 1, 2, 3, 4, 5, 6, 7, 8, 9, 0xF3] = some (.frameH healthFrame, []) := by
  decide +kernel
theorem test_frame_manuf :
    frameInstr [0x54, 0x0F, 0x11, 0x22, 0x33, 0x44, 0x55, 0x66, 0x77, 0x88, 0x99, 0xB3] = some (.frameI manufFrame, []) := by
  decide +kernel
/-- `30_encoding.md` R91: an unrecognized marker is no frame; nor is a truncated frame. -/
theorem test_frame_rejects : frameInstr (0x54 :: 0x54 :: frameA) = none ∧ frameInstr (frameA.take 46) = none := by
  decide +kernel

/-! ## One step -/

/-- What V-F1 to V-F9 list: state after, cursor after, the cell written, the event. -/
def micro (a : Nat) (s : State) : DecoderState × Nat × Option Byte × Option Output :=
  (s.st, s.cur, s.buf.read a, s.out.head?)

/-- V-F1b. -/
theorem test_sync : observe (exec (.sync 0x54) filledA) (micro 0) = some (.awaitKind, 1, some 0x54, some (.event .none)) := by
  decide +kernel
/-- V-F2b. -/
theorem test_skip : observe (exec (.skip 0x2C) filledA) (micro 46) =
    some (.awaitHeader, 47, some 0x49, some (.event .none)) := by decide +kernel
/-- V-F3. -/
theorem test_kindM : observe (exec (.kindM 0x2C) (stateWith .awaitKind [0x54])) (micro 1) =
    some (.accumulating .measurement, 2, some 0x2C, some (.event .none)) := by decide
/-- V-F4. -/
theorem test_kindH : observe (exec (.kindH 0xE0) (stateWith .awaitKind [0x54])) (micro 1) =
    some (.accumulating .health, 2, some 0xE0, some (.event .none)) := by decide
/-- V-F5. -/
theorem test_kindI : observe (exec (.kindI 0x0F) (stateWith .awaitKind [0x54])) (micro 1) =
    some (.accumulating .manufacturerInfo, 2, some 0x0F, some (.event .none)) := by decide
/-- V-F6b: a header byte is no kind marker. -/
theorem test_abandon : observe (exec (.abandon 0x54) (stateWith .awaitKind [0x54])) (micro 1) =
    some (.awaitHeader, 2, some 0x54, some (.event .none)) := by decide
/-- V-F7: a header byte inside a body is data. -/
theorem test_acc : observe (exec (.acc 0x54) (stateWith (.accumulating .measurement) [0x54, 0x2C])) (micro 2) =
    some (.accumulating .measurement, 3, some 0x54, some (.event .none)) := by decide
/-- V-F8. -/
theorem test_finM : observe (exec (.finM 0x49) almostA) (micro 46) =
    some (.awaitHeader, 47, some 0x49, some (.event (.frameReady .measurement))) := by decide +kernel
/-- V-F8b. -/
theorem test_finH : observe (exec (.finH 0xF3) (stateWith (.accumulating .health) (healthFrame.toBytes.take 11))) (micro 11) =
    some (.awaitHeader, 12, some 0xF3, some (.event (.frameReady .health))) := by decide +kernel
/-- V-F8c. -/
theorem test_finI :
    observe (exec (.finI 0xB3) (stateWith (.accumulating .manufacturerInfo) (manufFrame.toBytes.take 11))) (micro 11) =
    some (.awaitHeader, 12, some 0xB3, some (.event (.frameReady .manufacturerInfo))) := by decide +kernel
/-- V-F9. -/
theorem test_ovf : observe (exec (.ovf 0x11) fullState) (micro 8) = some (.awaitHeader, 8, none, some (.event .none)) := by
  decide
/-- `30_encoding.md` R88: KIND.M is not selected in AwaitHeader (log entry 10). -/
theorem test_not_selected : refusalOf (exec (.kindM 0x2C) State.reset) = some (.notSelected .kindM) := by decide

/-- V-C4. -/
theorem test_crc8Upd : observe (exec (.crc8Upd 0 0xFF) State.reset) (·.out) = some [.byte 0xA8] := by decide +kernel
/-- V-C8. -/
theorem test_crc8 : observe (exec (.crc8 (.bytes [0x31, 0x32, 0x33, 0x34, 0x35, 0x36, 0x37, 0x38, 0x39]) 0 8) State.reset) (·.out) =
    some [.byte 0xC3] := by decide +kernel
/-- V-C1: the empty range. -/
theorem test_crc8_empty : observe (exec (.crc8 .buffer 0 (-1)) State.reset) (·.out) = some [.byte 0] := by decide +kernel
/-- V-C12. -/
theorem test_validate : observe (exec (.validate .buffer 47) filledA) (·.out) = some [.flag true] := by decide +kernel
/-- V-C15. -/
theorem test_validate_false : observe (exec (.validate (.bytes (badFrame manufFrame.toBytes)) 12) State.reset) (·.out) =
    some [.flag false] := by decide +kernel
/-- `42_record_decode.md` R160, section 2.3 of the vectors: `FF` is 255. -/
theorem test_get8 : observe (exec (.get8 (.bytes [0xFF]) 0) State.reset) (·.out) = some [.byte 255] := by decide
/-- U7: a cell that holds no value (log entry 5). -/
theorem test_get8_unwritten : faultOf (exec (.get8 .buffer 0) State.reset) = some (.unwrittenCell 0) := by decide
/-- Section 2.3 of the vectors: bytes `34 12` are 4660. -/
theorem test_get16le : observe (exec (.get16le (.bytes [0x34, 0x12]) 0) State.reset) (·.out) = some [.half 4660] := by decide
/-- V-D1: the second point's distance stands at the odd offset 9. -/
theorem test_get16le_odd : observe (exec (.get16le .buffer 9) filledA) (·.out) = some [.half 1100] := by decide +kernel
/-- V-D1. -/
theorem test_decode : observe (exec (.decode .buffer) filledA) (·.out) = some [.record recordA] := by decide +kernel

/-- V-S1, the last step. -/
theorem test_step : observe (exec (.step (.frameReady .measurement)) filledA) (fun s => (s.latest, s.dropcnt, s.out)) =
    some (some recordA, 0, [.report ⟨.frameReady .measurement, true, false, some recordA, false⟩]) := by decide +kernel
/-- V-S9: the counter wraps. -/
theorem test_step_wraps :
    observe (exec (.step (.frameReady .measurement))
      { stateWith .awaitHeader (badFrame frameA) with dropcnt := 0xFFFF }) (fun s => (s.latest, s.dropcnt)) =
    some (none, 0) := by decide +kernel
/-- `43_publish.md` R181. -/
theorem test_publish : observe (exec (.publish recordA) { State.reset with latest := some recordZ }) (·.latest) =
    some (some recordA) := by decide +kernel
/-- `43_publish.md` R182. -/
theorem test_notify : observe (exec (.notify recordZ) withHandler) (·.out) = some [.flag true, .invoked ⟨7⟩ recordZ] := by
  decide +kernel
theorem test_notify_nobody : observe (exec (.notify recordZ) State.reset) (·.out) = some [.flag false] := by decide +kernel
/-- `43_publish.md` R185. -/
theorem test_pass : observe (exec (.pass .health) State.reset) (·.out) =
    some [.report ⟨.frameReady .health, true, true, none, false⟩] := by decide +kernel
/-- V-S7. -/
theorem test_latest : observe (exec .latest { State.reset with latest := some recordZ }) (·.out) =
    some [.latest (some recordZ)] := by decide +kernel
/-- V-S8: the newer handler replaces the older. -/
theorem test_register : observe (exec (.register ⟨9⟩) withHandler) (·.handler) = some (some ⟨9⟩) := by decide
/-- V-S10. -/
theorem test_reset :
    observe (exec .reset { almostA with latest := some recordZ, handler := some ⟨7⟩, dropcnt := 3 })
      (fun s => (s.st, s.cur, s.latest, s.handler, s.dropcnt)) = some (.awaitHeader, 0, none, none, 0) := by decide +kernel
/-- V-S2: the last byte of frame A, with a handler. -/
theorem test_feed : observe (exec (.feed 0x49) { almostA with handler := some ⟨7⟩ }) (·.out) =
    some [.report ⟨.frameReady .measurement, true, false, some recordA, true⟩, .invoked ⟨7⟩ recordA] := by decide +kernel
/-- V-S3: the last byte of `bad(frame A)`. -/
theorem test_feed_bad : observe (exec (.feed 0x48) almostA) (fun s => (s.latest, s.dropcnt, s.cur)) = some (none, 1, 47) := by
  decide +kernel
/-- V-S1. -/
theorem test_frameM : observe (exec (.frameM recordA) State.reset) (fun s => (s.st, s.cur, s.latest, s.dropcnt)) =
    some (.awaitHeader, 47, some recordA, 0) := by decide +kernel
/-- V-S4. -/
theorem test_frameH : observe (exec (.frameH healthFrame) State.reset) (fun s => (s.cur, s.latest, s.dropcnt, s.out.head?)) =
    some (12, none, 0, some (.report ⟨.frameReady .health, true, true, none, false⟩)) := by decide +kernel
/-- V-S4c. -/
theorem test_frameI :
    observe (exec (.frameI { manufFrame with crc := 0xB2 }) State.reset) (fun s => (s.cur, s.latest, s.dropcnt, s.out.head?)) =
    some (12, none, 1, some (.report ⟨.frameReady .manufacturerInfo, false, false, none, false⟩)) := by decide +kernel
/-- `30_encoding.md` R96: the serializer computes the checksum byte of V-D1. -/
theorem test_serializer : (withChecksum .default { recordA with crc := 0 }).toBytes = frameA := by decide +kernel

/-! ## The step and the placing of table words -/

theorem test_step_idle : observe (step State.reset) (fun s => decide (s = State.reset)) = some true := by decide +kernel
theorem test_place_sync : observe (step (State.reset.withFetchWord 8 0x54)) (micro 0) =
    some (.awaitKind, 1, some 0x54, some (.report ⟨.none, false, false, none, false⟩)) := by decide +kernel
theorem test_place_kindM : observe (step (State.reset.withFetchWord 8 0x2C)) (micro 1) =
    some (.accumulating .measurement, 2, some 0x2C, some (.report ⟨.none, false, false, none, false⟩)) := by decide +kernel
theorem test_place_frameH : observe (step (State.reset.withFetchWord 16 0xE054)) (fun s => (s.st, s.cur)) =
    some (.awaitHeader, 12) := by decide +kernel
theorem test_ill_formed_refused :
    refusalOf (step { State.reset with cfg := { Config.default with manufMarker := 0xE0 } }) = some .illFormedConfig := by
  decide +kernel

/-! ## Ports (`10_state.md` R36, `60_exceptions.md` R210) -/

theorem test_port_codes : frameKindCode .manufacturerInfo = 2 ∧
    decoderStateCode (.accumulating .health) = (2, some 1) := by decide
theorem test_port_reset_wins : observe (State.reset.sample ⟨true, true, 0x54, true, ⟨1⟩⟩) (·.inp) = some [.reset] := by decide
theorem test_port_clash : refusalOf (InPorts.op ⟨false, true, 0x54, true, ⟨1⟩⟩) = some .clashingStrobes := by decide

/-! ## Witnesses: concrete values that meet all hypotheses of an obligation -/

theorem read_none_of_below {m : Memory} {a : Nat} (h : ∀ c ∈ m, c.1 < a) : m.read a = none := by
  induction m with
  | nil => rfl
  | cons c m ih =>
    have hc : c.1 < a := h c (by simp)
    rw [read_cons, if_neg (by omega)]
    exact ih fun d hd => h d (by simp [hd])

/-- Frame A but for its last byte is buffered: a state of the invariant. -/
theorem witness_stateInv : StateInv almostA where
  config := by decide
  layout := rfl
  seq := by
    show 2 ≤ almostA.cur ∧ _
    decide +kernel
  buf :=
    { canonical := by decide +kernel
      written := by decide +kernel
      short := fun a h => read_none_of_below fun c hc =>
        Nat.lt_of_lt_of_le ((by decide +kernel : ∀ c ∈ almostA.buf, c.1 < 47) c hc) (h .measurement)
      fits := by decide }
  counter := by decide
  cache := fun _ h => by cases h

theorem holds_of_read {s : State} {bs : List Byte}
    (h : ∀ i (hi : i < bs.length), i < s.cfg.cap ∧ i < s.cur ∧ s.buf.read i = some bs[i]) : s.holds bs :=
  fun i hi => readCell_eq_next.2 (h i hi)

theorem witness_holds : filledA.holds frameA := holds_of_read (by decide +kernel)
theorem witness_holds_prefix : almostA.holds (frameA.take 46) := holds_of_read (by decide +kernel)
theorem witness_publishable : Publishable .default recordA := by unfold Publishable; decide +kernel
theorem witness_publishable_zero : Publishable .default recordZ := by unfold Publishable; decide +kernel
/-- The index of a table entry: eight CRC-8 steps with generator 0x4D (`41_checksum.md` R143) undone. -/
def tableIndex (v : Byte) : Byte :=
  (List.range 8).foldl (fun (w : Byte) _ => if w.getLsbD 0 then ((w ^^^ 0x4D) >>> 1) ||| 0x80 else w >>> 1) v
theorem tableIndex_entry : ∀ i : Fin 256, (tableIndex Config.default.crcTable[i]).toNat = i.val := by decide +kernel
theorem witness_tablePermutes : TablePermutes .default := fun i j h =>
  Fin.ext ((tableIndex_entry i).symm.trans ((congrArg (fun v => (tableIndex v).toNat) h).trans (tableIndex_entry j)))
/-- Bytes that agree below 47 but for offset `p` agree everywhere but for offset `p`. -/
theorem byteAt_agree {bs cs : List Byte} {p : Nat} (hb : bs.length = 47) (hc : cs.length = 47)
    (h : ∀ x, x < 47 → x ≠ p → byteAt bs x = byteAt cs x) (x : Nat) (hx : x ≠ p) : byteAt bs x = byteAt cs x := by
  by_cases h47 : x < 47
  · exact h x h47 hx
  · have e : ∀ l : List Byte, l.length = 47 → byteAt l x = 0 := fun l hl => by
      simp [byteAt, List.getD_eq_getElem?_getD, List.getElem?_eq_none (by omega : l.length ≤ x)]
    rw [e bs hb, e cs hc]

theorem witness_SyncStartsAFrame : filledA.st = .awaitHeader ∧ (0x54 : Byte) = filledA.cfg.header ∧ 0 < filledA.cfg.cap := by decide
theorem witness_SkipWritesNothing : filledA.st = .awaitHeader ∧ (0x2C : Byte) ≠ filledA.cfg.header := by decide
/-- One for each of the three clauses. -/
theorem witness_KindMarkersStartAccumulating :
    (stateWith .awaitKind [0x54]).st = .awaitKind ∧ (stateWith .awaitKind [0x54]).cur < Config.default.cap ∧
      (0x2C : Byte) = Config.default.measMarker ∧
      ((0xE0 : Byte) ≠ Config.default.measMarker ∧ (0xE0 : Byte) = Config.default.healthMarker) ∧
      ((0x0F : Byte) ≠ Config.default.measMarker ∧ (0x0F : Byte) ≠ Config.default.healthMarker ∧
        (0x0F : Byte) = Config.default.manufMarker) := by decide
/-- V-F6b: the header byte itself. -/
theorem witness_AbandonConsumesAnUnrecognizedKind :
    (stateWith .awaitKind [0x54]).st = .awaitKind ∧ (stateWith .awaitKind [0x54]).cur < Config.default.cap ∧
      (0x54 : Byte) ≠ Config.default.measMarker ∧ (0x54 : Byte) ≠ Config.default.healthMarker ∧
      (0x54 : Byte) ≠ Config.default.manufMarker := by decide
/-- V-F7 and V-F7b: the first and the last cursor of ACC in a Measurement frame. -/
theorem witness_AccStoresABodyByte :
    (stateWith (.accumulating .measurement) [0x54, 0x2C]).cur + 1 < Config.default.lenOf .measurement ∧
      (stateWith (.accumulating .measurement) (frameA.take 45)).cur = 45 ∧ 45 < Config.default.cap ∧
      45 + 1 < Config.default.lenOf .measurement := by decide
/-- One for each of the three clauses. -/
theorem witness_FinCompletesTheFrame :
    (almostA.st = .accumulating .measurement ∧ almostA.cur < almostA.cfg.cap ∧ almostA.cur + 1 = almostA.cfg.lenMeas) ∧
      (stateWith (.accumulating .health) (healthFrame.toBytes.take 11)).cur + 1 = Config.default.lenHealth ∧
      (stateWith (.accumulating .manufacturerInfo) (manufFrame.toBytes.take 11)).cur + 1 = Config.default.lenManuf := by
  decide +kernel
theorem witness_OvfStoresNothing : fullState.st = .accumulating .measurement ∧ fullState.cfg.cap ≤ fullState.cur := by decide
theorem witness_UnselectedMicroOperationIsRefused :
    select State.reset.cfg State.reset.st State.reset.cur 0x2C ≠ some .kindM := by decide
/-- One that stores and one that does not. -/
theorem witness_MicroOperationFrame :
    (∃ t, exec (MicroOp.kindM.instr 0x2C) (stateWith .awaitKind [0x54]) = .next t) ∧ storeOffset .kindM 1 = some 1 ∧
      (∃ t, exec (MicroOp.skip.instr 0x2C) filledA = .next t) ∧ storeOffset .skip 47 = none := by
  refine ⟨?_, rfl, ?_, rfl⟩
  · exact (next_of_observe test_kindM).imp fun _ h => h.1
  · exact (next_of_observe test_skip).imp fun _ h => h.1
theorem witness_ReachableStatesSelectAndNeverOverflow : StateInv almostA := witness_stateInv
theorem witness_FeedIsMicroOperationThenStep :
    ∃ m : State, select almostA.cfg almostA.st almostA.cur 0x49 = some .finM ∧
      exec (MicroOp.finM.instr 0x49) almostA = .next (m.emit (.event (.frameReady .measurement))) :=
  ⟨_, rfl, rfl⟩
theorem witness_FeedAlwaysAnswers : StateInv almostA := witness_stateInv
theorem witness_FeedFrame : ∃ t, exec (.feed 0x48) almostA = .next t :=
  (next_of_observe test_feed_bad).imp fun _ h => h.1
theorem test_feed_report : observe (exec (.feed 0x49) almostA) (·.out.head?) =
    some (some (.report ⟨.frameReady .measurement, true, false, some recordA, false⟩)) := by decide +kernel
/-- With a byte that publishes; the record is the one the report shows. -/
theorem witness_FeedPublishesExactlyTheValidMeasurementFrames :
    StateInv almostA ∧ (frameA.take 46).length = almostA.cur ∧ almostA.holds (frameA.take 46) ∧
      ∃ t, exec (.feed 0x49) almostA = .next t ∧
        t.out.head? = some (.report ⟨.frameReady .measurement, true, false, some recordA, false⟩) :=
  ⟨witness_stateInv, by decide, witness_holds_prefix, next_of_observe test_feed_report⟩
theorem witness_ChecksumMismatchOnlyCounts :
    ∃ s : State, (badFrame frameA).length = s.cfg.lenOf .measurement ∧ badFrame frameA ≠ [] ∧ s.holds (badFrame frameA) ∧
      ¬ ValidBytes s.cfg (badFrame frameA) :=
  ⟨stateWith .awaitHeader (badFrame frameA), by decide, by decide, holds_of_read (by decide +kernel), by decide +kernel⟩
theorem witness_ValidShortFrameOnlyReports :
    ∃ s : State, healthFrame.toBytes.length = s.cfg.lenOf ShortKind.health.kind ∧ healthFrame.toBytes ≠ [] ∧
      s.holds healthFrame.toBytes ∧ ValidBytes s.cfg healthFrame.toBytes :=
  ⟨stateWith .awaitHeader healthFrame.toBytes, by decide, by decide, holds_of_read (by decide +kernel), by decide +kernel⟩
/-- One state for each of the two clauses. -/
theorem witness_ValidMeasurementFrameIsPublished :
    frameA.length = filledA.cfg.lenMeas ∧ 47 ≤ frameA.length ∧ filledA.holds frameA ∧ ValidBytes filledA.cfg frameA ∧
      filledA.handler = none ∧ (State.holds { filledA with handler := some ⟨7⟩ } frameA) :=
  ⟨by decide, by decide, witness_holds, by decide +kernel, rfl, holds_of_read (by decide +kernel)⟩
theorem witness_NotifyInvokesTheRegisteredHandler : State.reset.handler = none ∧ withHandler.handler = some ⟨7⟩ := by decide
/-- With the event None, and with a completed frame. -/
theorem witness_StepFrame :
    (∃ t, exec (.step .none) filledA = .next t) ∧ ∃ t, exec (.step (.frameReady .measurement)) filledA = .next t :=
  ⟨⟨_, rfl⟩, (next_of_observe test_step).imp fun _ h => h.1⟩
/-- The whole of a given array, and the first cells of the buffer. -/
theorem witness_ChecksumFoldsTheRange :
    (∀ x : Nat, 0 ≤ x → (x : Int) ≤ 0 → readArg State.reset (.bytes [0x54]) x = .next 0x54) ∧
      ∀ x : Nat, 0 ≤ x → (x : Int) ≤ 46 → readArg filledA .buffer x = .next (byteAt frameA x) := by
  refine ⟨fun x _ h => ?_, fun x _ h => readCell_eq_next.2 ?_⟩
  · obtain rfl : x = 0 := by omega
    rfl
  · exact (by decide +kernel : ∀ x, x < 47 → x < filledA.cfg.cap ∧ x < filledA.cur ∧
      filledA.buf.read x = some (byteAt frameA x)) x (by omega)
/-- The shortest array and the buffer. -/
theorem witness_ValidateComparesTheLastByte :
    (1 ≤ 1 ∧ ∀ x, x < 1 → readArg State.reset (.bytes [0]) x = .next 0) ∧
      (1 ≤ 47 ∧ ∀ x, x < 47 → readArg filledA .buffer x = .next (byteAt frameA x)) := by
  refine ⟨⟨by decide, fun x h => ?_⟩, by decide, fun x h => ?_⟩
  · obtain rfl : x = 0 := by omega
    rfl
  · exact witness_ChecksumFoldsTheRange.2 x (by omega) (by omega)
theorem witness_OneChangedByteIsDetected :
    TablePermutes .default ∧ frameA.length = (frameA.set 45 0).length ∧ 45 + 1 < frameA.length ∧
      frameA[45]? ≠ (frameA.set 45 0)[45]? ∧ ∀ x, x ≠ 45 → frameA[x]? = (frameA.set 45 0)[x]? :=
  ⟨witness_tablePermutes, by decide, by decide, by decide, fun x hx => by rw [List.getElem?_set_ne (Ne.symm hx)]⟩
theorem witness_Get8AnswersTheByte : readArg State.reset (.bytes [0xC8]) 0 = .next 0xC8 := rfl
/-- The odd offset 9 of V-D1. -/
theorem witness_Get16leIsLittleEndian :
    readArg filledA .buffer 9 = .next 0x4C ∧ readArg filledA .buffer (9 + 1) = .next 0x04 :=
  ⟨readCell_eq_next.2 (by decide +kernel), readCell_eq_next.2 (by decide +kernel)⟩
theorem witness_DecodeExtractsTheFields : ∀ x, x < 47 → readArg filledA .buffer x = .next (byteAt frameA x) :=
  witness_ValidateComparesTheLastByte.2.2
theorem witness_FunctionsWriteNoState : ∃ t, exec (.decode .buffer) filledA = .next t :=
  (next_of_observe test_decode).imp fun _ h => h.1
theorem witness_MicroOperationsDecodeAndEncodeAgree :
    decodeByte .default .awaitKind 1 0x99 = .ok (.abandon 0x99) ∧ Config.wf .default ∧
      (MicroOp.abandon.instr 0x99).wf .default = true := ⟨rfl, by decide, by decide⟩
/-- One for each clause. -/
theorem witness_FramesDecodeAndEncodeAgree :
    (Instr.frameM recordA).wf .default = true ∧ (Instr.frameH healthFrame).wf .default = true ∧
      (Instr.frameI manufFrame).wf .default = true ∧
      ∃ i rest, decodeFrame .default [0x54, 0xE0, 1, 2, 3, 4, 5, 6, 7, 8, 9, 0xF3] = .ok (i, rest) :=
  ⟨by decide, by decide, by decide, _, _, rfl⟩
/-- Each of the six forms of the queue. -/
theorem witness_StepRunsTheOldestOperation :
    State.reset.cfg.wf ∧ State.reset.inp = [] ∧ (State.reset.push .reset).inp = .reset :: [] ∧
      (State.reset.push (.feed 0x54)).inp = .feed 0x54 :: [] ∧ (State.reset.push .latest).inp = .latest :: [] ∧
      (State.reset.push (.register ⟨7⟩)).inp = .register ⟨7⟩ :: [] ∧ (State.reset.push (.feeds frameA)).inp = .feeds frameA :: [] := by
  decide
theorem witness_StepRunsTheDecodedInstruction_byte :
    ∃ m : State, State.reset.cfg.wf ∧ (State.reset.push (.feed 0x54)).inp = .feed 0x54 :: [] ∧
      decodeByte .default .awaitHeader 0 0x54 = .ok (.sync 0x54) ∧
      exec (.sync 0x54) State.reset = .next (m.emit (.event .none)) := ⟨_, by decide, rfl, rfl, rfl⟩
theorem witness_StepRunsTheDecodedInstruction_frame :
    State.reset.cfg.wf ∧ (State.reset.push (.feeds healthFrame.toBytes)).inp = .feeds healthFrame.toBytes :: [] ∧
      decodeFrame State.reset.cfg healthFrame.toBytes = .ok (.frameH healthFrame, []) := ⟨by decide, rfl, rfl⟩
theorem witness_IllFormedConfigurationIsRefused : ¬ fullState.cfg.wf := by decide
theorem witness_BurstIsItsFeeds : State.reset.cfg.wf := by decide
theorem witness_StepNeverStops : StateInv almostA := witness_stateInv
/-- The last byte of frame A is pending. -/
theorem witness_stateInv_pending : StateInv (almostA.push (.feed 0x49)) where
  config := witness_stateInv.config
  layout := rfl
  seq := witness_stateInv.seq
  buf := ⟨witness_stateInv.buf.canonical, witness_stateInv.buf.written, witness_stateInv.buf.short, witness_stateInv.buf.fits⟩
  counter := witness_stateInv.counter
  cache := witness_stateInv.cache
theorem test_step_publishes : observe (step (almostA.push (.feed 0x49))) (·.latest) = some (some recordA) := by decide +kernel
theorem witness_StepKeepsTheInvariant :
    StateInv (almostA.push (.feed 0x49)) ∧ ∃ t, step (almostA.push (.feed 0x49)) = .next t :=
  ⟨witness_stateInv_pending, (next_of_observe test_step_publishes).imp fun _ h => h.1⟩
/-- A cell at the capacity, and a cursor inside it. -/
theorem witness_NothingIsWrittenPastTheCapacity :
    (∃ t, exec (.feed 0x48) almostA = .next t) ∧ almostA.cfg.cap ≤ 128 ∧ almostA.cur ≤ almostA.cfg.cap :=
  ⟨witness_FeedFrame, by decide, by decide⟩
/-- One operation of each context. -/
theorem witness_ContextsWriteOnlyTheirState :
    (contextOf .latest = .consumer ∧ ∃ t, issue .latest filledA = .next t) ∧
      (contextOf (.feed 0x2C) = .producer ∧ ∃ t, issue (.feed 0x2C) State.reset = .next t) ∧
      (contextOf (.register ⟨7⟩) = .host ∧ ∃ t, issue (.register ⟨7⟩) filledA = .next t) :=
  ⟨⟨rfl, _, rfl⟩, ⟨rfl, _, rfl⟩, rfl, _, rfl⟩
theorem witness_CacheIsEmptiedOnlyByReset :
    ∃ s : State, s.latest ≠ none ∧ Op.latest ≠ .reset ∧ ∃ t, issue .latest s = .next t :=
  ⟨{ State.reset with latest := some recordZ }, by decide, by decide, _, rfl⟩
theorem witness_MeasurementFramePublishesItsRecord :
    State.reset.cfg.wf ∧ State.reset.cfg.lenMeas = 47 ∧ State.reset.st = .awaitHeader ∧ Publishable State.reset.cfg recordA :=
  ⟨by decide, rfl, rfl, witness_publishable⟩
/-- V-S3. -/
theorem witness_WrongChecksumPublishesNothing :
    State.reset.cfg.wf ∧ State.reset.cfg.lenMeas = 47 ∧ State.reset.st = .awaitHeader ∧
      ∃ r : MeasurementRecord, r.header = State.reset.cfg.header ∧ r.verLen = State.reset.cfg.measMarker ∧
        r.crc ≠ crcOf State.reset.cfg (r.toBytes.take 46) :=
  ⟨by decide, rfl, rfl, { recordA with crc := 0x48 }, rfl, rfl, by decide +kernel⟩
/-- V-S4 (right checksum) and V-S4c (wrong checksum). -/
theorem witness_ShortFramesPassOrCount :
    State.reset.cfg.wf ∧ State.reset.cfg.lenOf ShortKind.health.kind = 12 ∧
      State.reset.cfg.lenOf ShortKind.manufacturerInfo.kind = 12 ∧ State.reset.st = .awaitHeader ∧
      (healthFrame.header = State.reset.cfg.header ∧ healthFrame.marker = State.reset.cfg.markerOf ShortKind.health.kind ∧
        healthFrame.crc = crcOf State.reset.cfg (healthFrame.toBytes.take 11)) ∧
      (manufFrame.header = State.reset.cfg.header ∧
        manufFrame.marker = State.reset.cfg.markerOf ShortKind.manufacturerInfo.kind ∧
        (0xB2 : Byte) ≠ crcOf State.reset.cfg (manufFrame.toBytes.take 11)) := by
  decide +kernel
theorem witness_GarbageWithoutHeaderIsSkipped :
    State.reset.st = .awaitHeader ∧ ∀ b ∈ ([0x00, 0xFF, 0x2C, 0x0F, 0xE0] : List Byte), b ≠ State.reset.cfg.header := by decide
theorem witness_BackToBackFramesArePublishedInOrder :
    State.reset.cfg.wf ∧ State.reset.cfg.lenMeas = 47 ∧ State.reset.st = .awaitHeader ∧
      Publishable State.reset.cfg recordA ∧ Publishable State.reset.cfg recordZ :=
  ⟨by decide, rfl, rfl, witness_publishable, witness_publishable_zero⟩
/-- P3: frame A holds no other header byte. -/
theorem witness_StrayHeaderSwallowsTheNextFrame :
    State.reset.cfg.wf ∧ State.reset.st = .awaitHeader ∧ recordA.header = State.reset.cfg.header ∧
      classify State.reset.cfg State.reset.cfg.header = .unrecognized ∧
      ∀ b ∈ recordA.toBytes.tail, b ≠ State.reset.cfg.header := by decide +kernel
/-- Frame A with the first and with the last changeable byte, offsets 2 and 45, changed. -/
theorem witness_AFrameWithOneChangedBodyByteIsDropped :
    State.reset.cfg.wf ∧ State.reset.cfg.lenMeas = 47 ∧ TablePermutes State.reset.cfg ∧ State.reset.st = .awaitHeader ∧
      Publishable State.reset.cfg recordA ∧
      (byteAt (MeasurementRecord.toBytes { recordA with speed := 0x1235 }) 2 ≠ byteAt recordA.toBytes 2 ∧
        ∀ x, x ≠ 2 → byteAt (MeasurementRecord.toBytes { recordA with speed := 0x1235 }) x = byteAt recordA.toBytes x) ∧
      (byteAt (MeasurementRecord.toBytes { recordA with timestamp := 0xDFF0 }) 45 ≠ byteAt recordA.toBytes 45 ∧
        ∀ x, x ≠ 45 → byteAt (MeasurementRecord.toBytes { recordA with timestamp := 0xDFF0 }) x = byteAt recordA.toBytes x) :=
  ⟨by decide, rfl, witness_tablePermutes, rfl, witness_publishable,
    ⟨by decide +kernel, byteAt_agree (by decide +kernel) (by decide +kernel) (by decide +kernel)⟩,
    by decide +kernel, byteAt_agree (by decide +kernel) (by decide +kernel) (by decide +kernel)⟩
/-- One for each of the four clauses. -/
theorem witness_ResetStrobeWins :
    (InPorts.mk true true 0x54 true ⟨7⟩).rst = true ∧
      ((InPorts.mk false true 0x54 false ⟨7⟩).inValid = true ∧ (InPorts.mk false true 0x54 false ⟨7⟩).regSet = false) ∧
      ((InPorts.mk false false 0x54 true ⟨7⟩).inValid = false ∧ (InPorts.mk false false 0x54 true ⟨7⟩).regSet = true) ∧
      ((InPorts.mk false false 0x54 false ⟨7⟩).inValid = false ∧ (InPorts.mk false false 0x54 false ⟨7⟩).regSet = false) := by
  decide

end Sys2Proof.Machine.Tests
end

section
/-! Proofs: what a step does, by the configuration and the pending operations (`00_scope.md`). -/

namespace Sys2Proof.Machine

/-! ## One equation of `step` per case -/

/-- An inadmissible configuration is refused whatever is pending (`00_scope.md` R8, R9). -/
theorem step_of_not_wf {s : State} (h : ¬ s.cfg.wf) : step s = .refused .illFormedConfig := if_neg h

theorem step_of_wf {s : State} (h : s.cfg.wf) :
    step s = (fetch s).elim (.next s) fun p => issue p.1 p.2 := by
  rw [step, stepOnce, if_pos h]
  cases fetch s <;> rfl

theorem fetch_of_nil {s : State} (h : s.inp = []) : fetch s = none := by
  rw [fetch, h]

theorem fetch_of_cons {s : State} {o : Op} {rest : List Op} (h : s.inp = o :: rest) :
    fetch s = some (o, { s with inp := rest }) := by
  rw [fetch, h]

/-- With no operation pending the block holds its state (`60_exceptions.md` R219). -/
theorem step_of_nil {s : State} (hw : s.cfg.wf) (h : s.inp = []) : step s = .next s := by
  rw [step_of_wf hw, fetch_of_nil h, Option.elim_none]

/-- The oldest pending operation is taken away and issued (`00_scope.md` R12). -/
theorem step_of_cons {s : State} {o : Op} {rest : List Op} (hw : s.cfg.wf) (h : s.inp = o :: rest) :
    step s = issue o { s with inp := rest } := by
  rw [step_of_wf hw, fetch_of_cons h, Option.elim_some]

/-! ## The obligations -/

/-- Settles O41: each clause is the equation of `step` for that head of `inp`, and `issue` names what the operation runs. -/
theorem stepRunsTheOldestOperation : Obligations.StepRunsTheOldestOperation := by
  intro s rest hw
  refine ⟨fun h => ?nil, fun h => ?reset, fun b h => ?feed, fun h => ?latest, fun hd h => ?register, fun bs h => ?feeds⟩
  case nil => exact step_of_nil hw h
  all_goals exact step_of_cons hw h

/-- Settles O43: `step` tests the configuration before it looks at the pending operations. -/
theorem illFormedConfigurationIsRefused : Obligations.IllFormedConfigurationIsRefused :=
  fun _ h => step_of_not_wf h

end Sys2Proof.Machine
end

section
/-! Proofs: what a micro-operation, STEP, a FEED and a burst leave alone (`10_state.md` R32, `20_memory.md` R51). -/

namespace Sys2Proof.Machine

/-! ## Storing a byte -/

/-- The state after a micro-operation that stores `b` at offset `a` and goes to `st`; `microOp_of_stores` ties it to the model. -/
def State.stored (s : State) (st : DecoderState) (a : Nat) (b : Byte) : State :=
  { s with st := st, buf := s.buf.write a b, cur := a + 1 }

@[simp] theorem stored_cfg (s : State) (st : DecoderState) (a : Nat) (b : Byte) : (s.stored st a b).cfg = s.cfg := rfl
@[simp] theorem stored_st (s : State) (st : DecoderState) (a : Nat) (b : Byte) : (s.stored st a b).st = st := rfl
@[simp] theorem stored_buf (s : State) (st : DecoderState) (a : Nat) (b : Byte) :
    (s.stored st a b).buf = s.buf.write a b := rfl
@[simp] theorem stored_cur (s : State) (st : DecoderState) (a : Nat) (b : Byte) : (s.stored st a b).cur = a + 1 := rfl

/-- A micro-operation whose store offset is inside the buffer answers. -/
theorem microOp_of_stores {u : MicroOp} {b : Byte} {s : State} {a : Nat} (ha : storeOffset u s.cur = some a)
    (hc : a < s.cfg.cap) : microOp u b s = .next (s.stored (microState u s.st) a b, microEvent u) :=
  microOp_eq_next.2 ⟨rfl, .inr ⟨a, ha, hc, rfl⟩⟩

/-! ## Frames -/

/-- A micro-operation writes `st`, `buf` and `cur` only. -/
theorem microOp_frame {u : MicroOp} {b : Byte} {s m : State} {e : Event} (h : microOp u b s = .next (m, e)) :
    m.cfg = s.cfg ∧ m.latest = s.latest ∧ m.handler = s.handler ∧ m.dropcnt = s.dropcnt ∧ m.inp = s.inp ∧
      m.out = s.out := by
  obtain ⟨-, ⟨-, rfl⟩ | ⟨a, -, -, rfl⟩⟩ := microOp_eq_next.1 h <;> exact ⟨rfl, rfl, rfl, rfl, rfl, rfl⟩

/-- Every cell but the one at the store offset reads as before a micro-operation. -/
theorem microOp_read_other {u : MicroOp} {b : Byte} {s m : State} {e : Event} {a : Nat}
    (h : microOp u b s = .next (m, e)) (ha : storeOffset u s.cur ≠ some a) : m.buf.read a = s.buf.read a := by
  obtain ⟨-, ⟨-, rfl⟩ | ⟨x, hx, -, rfl⟩⟩ := microOp_eq_next.1 h
  · rfl
  · exact read_write_other fun hax => ha (hax ▸ hx)

/-- A micro-operation that stores leaves its byte at the store offset, which is below CAP, and the cursor past it. -/
theorem microOp_read_stored {u : MicroOp} {b : Byte} {s m : State} {e : Event} {a : Nat}
    (h : microOp u b s = .next (m, e)) (ha : storeOffset u s.cur = some a) :
    m.buf.read a = some b ∧ m.cur = a + 1 ∧ a < s.cfg.cap := by
  obtain ⟨-, ⟨hn, -⟩ | ⟨x, hx, hc, rfl⟩⟩ := microOp_eq_next.1 h
  · simp [hn] at ha
  · obtain rfl : x = a := by simpa [hx] using ha
    exact ⟨read_write_same _ _ _, rfl, hc⟩

/-- A micro-operation that stores nothing leaves the cursor where it is. -/
theorem microOp_cur_of_not_stores {u : MicroOp} {b : Byte} {s m : State} {e : Event}
    (h : microOp u b s = .next (m, e)) (ha : storeOffset u s.cur = none) : m.cur = s.cur := by
  obtain ⟨-, ⟨-, rfl⟩ | ⟨x, hx, -⟩⟩ := microOp_eq_next.1 h
  · rfl
  · simp [ha] at hx

/-- STEP leaves everything but `latest`, `dropcnt` and `out` alone. -/
theorem execStep_frame {e : Event} {s t : State} (h : execStep e s = .next t) :
    t.cfg = s.cfg ∧ t.st = s.st ∧ t.buf = s.buf ∧ t.cur = s.cur ∧ t.handler = s.handler ∧ t.inp = s.inp := by
  obtain ⟨r, rfl, -⟩ | ⟨k, rfl⟩ | ⟨r, rfl⟩ := execStep_cases h
  · exact ⟨rfl, rfl, rfl, rfl, rfl, rfl⟩
  · exact ⟨rfl, rfl, rfl, rfl, rfl, rfl⟩
  · simp

/-- STEP's newest output is a report, and the cache is the record it publishes, or as before if it publishes none. -/
theorem execStep_report {e : Event} {s t : State} (h : execStep e s = .next t) :
    ∃ r, t.out.head? = some (.report r) ∧
      (r.published = none → t.latest = s.latest) ∧ ∀ x, r.published = some x → t.latest = some x := by
  obtain ⟨r, rfl, hr⟩ | ⟨k, rfl⟩ | ⟨x, rfl⟩ := execStep_cases h
  · exact ⟨r, rfl, fun _ => rfl, by simp [hr]⟩
  · exact ⟨mismatchReport k, rfl, fun _ => rfl, by simp [mismatchReport]⟩
  · exact ⟨publishReport x _, rfl, by simp [publishReport], by simp [publishReport]⟩

/-- The store offset of a FEED is that of its micro-operation. -/
theorem feedStoreOffset_of_select {s : State} {b : Byte} {u : MicroOp} (h : select s.cfg s.st s.cur b = some u) :
    feedStoreOffset s b = storeOffset u s.cur := by
  simp [feedStoreOffset, h]

/-- A burst keeps what every FEED keeps. -/
theorem feedAll_keeps {P : State → Prop} (hP : ∀ b s t, P s → execFeed b s = .next t → P t) {bs : List Byte}
    {s t : State} (hs : P s) (h : feedAll bs s = .next t) : P t := by
  induction bs generalizing s with
  | nil => cases h; exact hs
  | cons b bs ih =>
    obtain ⟨m, hm, ht⟩ := andThen_eq_next.1 h
    exact ih (hP b s m hs hm) ht

/-- Settles O19: the micro-operation writes the cell and no output register, then STEP reports and touches no cell. -/
theorem feedFrame : Obligations.FeedFrame := by
  intro b s t h
  obtain ⟨u, m, e, hu, hm, ht⟩ := execFeed_eq_next.1 h
  obtain ⟨mcfg, mlatest, mhandler, -, minp, -⟩ := microOp_frame hm
  obtain ⟨tcfg, -, tbuf, -, thandler, tinp⟩ := execStep_frame ht
  rw [feedStoreOffset_of_select hu, tbuf, ← mlatest]
  exact ⟨tcfg.trans mcfg, thandler.trans mhandler, tinp.trans minp, fun a ha => microOp_read_other hm ha,
    fun x hx => (microOp_read_stored hm hx).1, execStep_report ht⟩

end Sys2Proof.Machine
end

section
/-! Proofs: the serializer undoes the record extraction (`42_record_decode.md` R163). -/

namespace Sys2Proof

/-- The 47 bytes of the record extracted from `B` are the bytes of `B` at offsets 0 to 46. -/
theorem recordOf_toBytes (B : Nat → Byte) : (recordOf B).toBytes = (List.range 47).map B := by
  simp [MeasurementRecord.toBytes, recordOf, pointOf, Point.toBytes, Vector.toList_ofFn, List.ofFn_succ, List.range_succ]

theorem map_byteAt_range (bs : List Byte) : (List.range bs.length).map (byteAt bs) = bs :=
  List.ext_getElem (by simp) fun i _ hi => by simp [byteAt_of_lt hi]

/-- Serializing the record of 47 bytes gives them back. -/
theorem recordOf_byteAt_toBytes {bs : List Byte} (h : bs.length = 47) : (recordOf (byteAt bs)).toBytes = bs := by
  rw [recordOf_toBytes, ← h, map_byteAt_range]

namespace Machine

/-- 47 valid bytes that begin with the header and the Measurement marker are a record the block may publish. -/
theorem publishable_recordOf {c : Config} {bs : List Byte} (hl : bs.length = 47) (h0 : byteAt bs 0 = c.header)
    (h1 : byteAt bs 1 = c.measMarker) (hv : ValidBytes c bs) : Publishable c (recordOf (byteAt bs)) := by
  refine ⟨h0, h1, ?_⟩
  have hlast : bs[46]? = some (crcOf c (bs.take 46)) := by
    simpa [ValidBytes, List.getLast?_eq_getElem?, List.dropLast_eq_take, hl] using hv
  rw [recordOf_byteAt_toBytes hl]
  show byteAt bs 46 = _
  simp [byteAt, List.getD_eq_getElem?_getD, hlast]

end Machine
end Sys2Proof
end

section
/-! Proofs: the invariant of the reachable states holds at reset and every step answers and keeps it (`10_state.md` R25 to R31). -/

namespace Sys2Proof.Machine

/-! ## The configuration -/

theorem lenOf_bounds {c : Config} (h : c.wf) (k : Kind) : 2 < c.lenOf k ∧ c.lenOf k ≤ c.cap := by
  obtain ⟨-, ⟨hm, hh, hi⟩, -⟩ := h
  cases k with
  | measurement => exact hm
  | health => exact hh
  | manufacturerInfo => exact hi

/-! ## The sequencing invariant, one equation per decoder state -/

theorem seqInv_awaitHeader {s : State} (h : s.st = .awaitHeader) :
    SeqInv s ↔ s.cur = 0 ∨ s.cur = 2 ∨ ∃ k, s.cur = s.cfg.lenOf k := by
  simp only [SeqInv, h]

theorem seqInv_awaitKind {s : State} (h : s.st = .awaitKind) :
    SeqInv s ↔ s.cur = 1 ∧ s.buf.read 0 = some s.cfg.header := by
  simp only [SeqInv, h]

theorem seqInv_accumulating {s : State} {k : Kind} (h : s.st = .accumulating k) :
    SeqInv s ↔ 2 ≤ s.cur ∧ s.cur < s.cfg.lenOf k ∧ s.buf.read 0 = some s.cfg.header ∧
      s.buf.read 1 = some (s.cfg.markerOf k) := by
  simp only [SeqInv, h]

/-! ## What keeps the invariant -/

/-- The sequencing and buffer parts of the invariant speak of `cfg`, `st`, `buf` and `cur` only. -/
theorem StateInv.of_same_frame {s t : State} (h : StateInv s) (hcfg : t.cfg = s.cfg) (hst : t.st = s.st)
    (hbuf : t.buf = s.buf) (hcur : t.cur = s.cur) (hcounter : t.dropcnt < 2 ^ s.cfg.dropcntW)
    (hcache : ∀ r, t.latest = some r → Publishable s.cfg r) : StateInv t where
  config := hcfg ▸ h.config
  layout := hcfg ▸ h.layout
  seq := by simpa only [SeqInv, hcfg, hst, hbuf, hcur] using h.seq
  buf :=
    { canonical := hbuf ▸ h.buf.canonical
      written := by rw [hbuf, hcur]; exact h.buf.written
      short := by rw [hcfg, hbuf]; exact h.buf.short
      fits := by rw [hcfg, hcur]; exact h.buf.fits }
  counter := hcfg ▸ hcounter
  cache := hcfg ▸ hcache

theorem StateInv.emit {s : State} (h : StateInv s) (o : Output) : StateInv (s.emit o) :=
  h.of_same_frame rfl rfl rfl rfl h.counter h.cache

theorem StateInv.withInp {s : State} (h : StateInv s) (l : List Op) : StateInv (withInp l s) :=
  h.of_same_frame rfl rfl rfl rfl h.counter h.cache

theorem StateInv.checksumMismatch {s : State} (h : StateInv s) (k : Kind) :
    StateInv (raise (.checksumMismatch k) s) :=
  h.of_same_frame rfl rfl rfl rfl (Nat.mod_lt _ (Nat.two_pow_pos _)) h.cache

theorem StateInv.notify_publish {s : State} (h : StateInv s) {r : MeasurementRecord} (hr : Publishable s.cfg r) :
    StateInv (notify r (publish r s)).1 :=
  h.of_same_frame (by simp) (by simp) (by simp) (by simp) (by simpa using h.counter)
    fun x hx => by
      obtain rfl : r = x := by simpa using hx
      exact hr

/-- Storing at or below the cursor, inside the frame of some kind, keeps the buffer's invariant (R59, R65). -/
theorem BufInv.stored {s : State} (h : BufInv s) {st : DecoderState} {a : Nat} {b : Byte} {k : Kind} (ha : a ≤ s.cur)
    (hk : a < s.cfg.lenOf k) (hc : a < s.cfg.cap) : BufInv (s.stored st a b) where
  canonical := write_wf a b h.canonical
  written := fun x hx => by
    rw [stored_buf, read_write]
    split
    · rfl
    · exact h.written x (by simp only [stored_cur] at hx; omega)
  short := fun x hx => by
    have hkx : s.cfg.lenOf k ≤ x := hx k
    rw [stored_buf, read_write_other (by omega)]
    exact h.short x hx
  fits := hc

theorem StateInv.stored {s : State} (h : StateInv s) {st : DecoderState} {a : Nat} {b : Byte} {k : Kind} (ha : a ≤ s.cur)
    (hk : a < s.cfg.lenOf k) (hseq : SeqInv (s.stored st a b)) : StateInv (s.stored st a b) where
  config := h.config
  layout := h.layout
  seq := hseq
  buf := h.buf.stored ha hk (Nat.lt_of_lt_of_le hk (lenOf_bounds h.config k).2)
  counter := h.counter
  cache := h.cache

/-! ## The micro-operations -/

/-- What the rest of a FEED relies on: when the event reports a kind, a whole frame of that kind stands in the buffer. -/
def EventInv (e : Event) (s : State) : Prop :=
  ∀ k, e = .frameReady k →
    s.cur = s.cfg.lenOf k ∧ s.buf.read 0 = some s.cfg.header ∧ s.buf.read 1 = some (s.cfg.markerOf k)

/-- The KIND micro-operation of a kind; `select_awaitKind` ties it to the selection. -/
def startOf : Kind → MicroOp
  | .measurement => .kindM
  | .health => .kindH
  | .manufacturerInfo => .kindI

theorem storeOffset_startOf (k : Kind) (cur : Nat) : storeOffset (startOf k) cur = some cur := by cases k <;> rfl
theorem microState_startOf (k : Kind) (st : DecoderState) : microState (startOf k) st = .accumulating k := by
  cases k <;> rfl
theorem microEvent_startOf (k : Kind) : microEvent (startOf k) = .none := by cases k <;> rfl
theorem storeOffset_finOf (k : Kind) (cur : Nat) : storeOffset (finOf k) cur = some cur := by cases k <;> rfl
theorem microState_finOf (k : Kind) (st : DecoderState) : microState (finOf k) st = .awaitHeader := by cases k <;> rfl
theorem microEvent_finOf (k : Kind) : microEvent (finOf k) = .frameReady k := by cases k <;> rfl

/-- In AwaitKind a byte is the marker of a kind and starts it, or is abandoned (`30_encoding.md` R88). -/
theorem select_awaitKind (c : Config) (cur : Nat) (b : Byte) :
    (∃ k, b = c.markerOf k ∧ select c .awaitKind cur b = some (startOf k)) ∨
      select c .awaitKind cur b = some .abandon := by
  by_cases hm : b = c.measMarker
  · exact .inl ⟨.measurement, hm, by simp [select, classify, startOf, hm]⟩
  by_cases hh : b = c.healthMarker
  · exact .inl ⟨.health, hh, by simp [select, classify, startOf, hm, ← hh]⟩
  by_cases hi : b = c.manufMarker
  · exact .inl ⟨.manufacturerInfo, hi, by simp [select, classify, startOf, hm, hh, ← hi]⟩
  · exact .inr (by simp [select, classify, hm, hh, hi])

/-- A byte is taken safely: a micro-operation is selected, it answers, and it leaves the invariant and what its event promises. -/
def TakesByte (s : State) (b : Byte) : Prop :=
  ∃ u m e, select s.cfg s.st s.cur b = some u ∧ microOp u b s = .next (m, e) ∧ StateInv m ∧ EventInv e m

/-- A selected micro-operation that stores inside a frame takes the byte, if what it leaves is sequenced rightly. -/
theorem takesByte_of_stores {s : State} {b : Byte} {u : MicroOp} {a : Nat} {k : Kind} (h : StateInv s)
    (hu : select s.cfg s.st s.cur b = some u) (hs : storeOffset u s.cur = some a) (ha : a ≤ s.cur)
    (hk : a < s.cfg.lenOf k) (hseq : SeqInv (s.stored (microState u s.st) a b))
    (he : EventInv (microEvent u) (s.stored (microState u s.st) a b)) : TakesByte s b :=
  ⟨u, _, _, hu, microOp_of_stores hs (Nat.lt_of_lt_of_le hk (lenOf_bounds h.config k).2), h.stored ha hk hseq, he⟩

theorem takesByte_awaitHeader {s : State} (h : StateInv s) (hst : s.st = .awaitHeader) (b : Byte) : TakesByte s b := by
  by_cases hb : b = s.cfg.header
  · have hlen := lenOf_bounds h.config .measurement
    refine takesByte_of_stores (u := .sync) (k := .measurement) h (by simp [select, hst, hb]) rfl (Nat.zero_le _)
      (by omega) ((seqInv_awaitKind rfl).2 ?_) nofun
    simp [hb]
  · exact ⟨.skip, s, .none, by simp [select, hst, hb], rfl, h, nofun⟩

theorem takesByte_awaitKind {s : State} (h : StateInv s) (hst : s.st = .awaitKind) (b : Byte) : TakesByte s b := by
  obtain ⟨hcur, hhdr⟩ := (seqInv_awaitKind hst).1 h.seq
  obtain ⟨k, hb, hu⟩ | hu := select_awaitKind s.cfg s.cur b
  · have hlen := lenOf_bounds h.config k
    refine takesByte_of_stores (k := k) h (hst ▸ hu) (storeOffset_startOf k _) le_rfl (by omega)
      ((seqInv_accumulating (microState_startOf k _)).2 ?_) (by simp [EventInv, microEvent_startOf])
    simp [hcur, read_write, hhdr, hb, hlen]
  · have hlen := lenOf_bounds h.config .measurement
    exact takesByte_of_stores (u := .abandon) (k := .measurement) h (hst ▸ hu) rfl le_rfl (by omega)
      ((seqInv_awaitHeader rfl).2 (.inr (.inl (by simp [hcur])))) nofun

theorem takesByte_accumulating {s : State} {k : Kind} (h : StateInv s) (hst : s.st = .accumulating k) (b : Byte) :
    TakesByte s b := by
  obtain ⟨hcur, hlt, hhdr, hmark⟩ := (seqInv_accumulating hst).1 h.seq
  have hlen := lenOf_bounds h.config k
  have hcap : ¬ s.cfg.cap ≤ s.cur := by omega
  have hhdr' : (s.buf.write s.cur b).read 0 = some s.cfg.header := by rw [read_write_other (by omega), hhdr]
  have hmark' : (s.buf.write s.cur b).read 1 = some (s.cfg.markerOf k) := by rw [read_write_other (by omega), hmark]
  by_cases hmore : s.cur + 1 < s.cfg.lenOf k
  · exact takesByte_of_stores (u := .acc) h (by simp [select, hst, hcap, hmore]) rfl le_rfl hlt
      ((seqInv_accumulating (s := s.stored s.st s.cur b) hst).2 ⟨Nat.le_succ_of_le hcur, hmore, hhdr', hmark'⟩) nofun
  · have hlast : s.cur + 1 = s.cfg.lenOf k := by omega
    refine takesByte_of_stores (u := finOf k) h (by simp [select, hst, hcap, hlast]) (storeOffset_finOf k _) le_rfl hlt
      ((seqInv_awaitHeader (microState_finOf k _)).2 (.inr (.inr ⟨k, hlast⟩))) ?_
    rintro k' hk
    obtain rfl : k = k' := by simpa [microEvent_finOf] using hk
    exact ⟨hlast, hhdr', hmark'⟩

theorem StateInv.takesByte {s : State} (h : StateInv s) (b : Byte) : TakesByte s b := by
  cases hst : s.st with
  | awaitHeader => exact takesByte_awaitHeader h hst b
  | awaitKind => exact takesByte_awaitKind h hst b
  | accumulating k => exact takesByte_accumulating h hst b

/-! ## STEP, FEED and the external operations: each answers, and keeps the invariant -/

/-- The outcome is a next state of the invariant. -/
def AnswersInv (o : Host.Outcome State Fault Refusal) : Prop := ∃ t, o = .next t ∧ StateInv t

/-- The cells below the cursor hold bytes the block can read. -/
theorem BufInv.exists_holds {s : State} (h : BufInv s) : ∃ bs : List Byte, bs.length = s.cur ∧ s.holds bs := by
  refine ⟨(List.range s.cur).map fun a => (s.buf.read a).getD 0, by simp, fun i hi => readCell_eq_next.2 ?_⟩
  have hi' : i < s.cur := by simpa using hi
  obtain ⟨v, hv⟩ := Option.isSome_iff_exists.1 (h.written i hi')
  exact ⟨Nat.lt_of_lt_of_le hi' h.fits, hi', by simp [hv]⟩

theorem byteAt_of_holds {s : State} {bs : List Byte} {i : Nat} {v : Byte} (h : s.holds bs) (hi : i < bs.length)
    (hv : s.buf.read i = some v) : byteAt bs i = v := by
  obtain ⟨-, -, hr⟩ := readCell_eq_next.1 (h i hi)
  rw [byteAt_of_lt hi]
  exact Option.some.inj (hr.symm.trans hv)

/-- STEP on a whole frame: by the checksum and the kind it counts, publishes a record that may be published, or only reports. -/
theorem execStep_frameReady_answersInv {s : State} {k : Kind} (h : StateInv s) (he : EventInv (.frameReady k) s) :
    AnswersInv (execStep (.frameReady k) s) := by
  obtain ⟨hcur, hhdr, hmark⟩ := he k rfl
  obtain ⟨bs, hbs, hholds⟩ := h.buf.exists_holds
  have hl : bs.length = s.cfg.lenOf k := hbs.trans hcur
  have hlen := lenOf_bounds h.config k
  have hn : bs ≠ [] := List.ne_nil_of_length_pos (by omega)
  by_cases hv : ValidBytes s.cfg bs
  · cases k with
    | measurement =>
      have h47 : bs.length = 47 := hl.trans h.layout
      have hpub : Publishable s.cfg (recordOf (byteAt bs)) :=
        publishable_recordOf h47 (byteAt_of_holds hholds (by omega) hhdr) (byteAt_of_holds hholds (by omega) hmark) hv
      exact ⟨_, execStep_publish hl h47.ge hholds hv, (h.notify_publish hpub).emit _⟩
    | health => exact ⟨_, execStep_pass (k := .health) hl hn hholds hv, h.emit _⟩
    | manufacturerInfo => exact ⟨_, execStep_pass (k := .manufacturerInfo) hl hn hholds hv, h.emit _⟩
  · exact ⟨_, execStep_invalid hl hn hholds hv, (h.checksumMismatch k).emit _⟩

theorem execStep_answersInv {e : Event} {s : State} (h : StateInv s) (he : EventInv e s) :
    AnswersInv (execStep e s) := by
  cases e with
  | none => exact ⟨_, execStep_none s, h.emit _⟩
  | frameReady k => exact execStep_frameReady_answersInv h he

theorem execFeed_answersInv (b : Byte) {s : State} (h : StateInv s) : AnswersInv (execFeed b s) := by
  obtain ⟨u, m, e, hu, hm, hmi, he⟩ := h.takesByte b
  rw [execFeed_of hu hm]
  exact execStep_answersInv hmi he

theorem feedAll_answersInv (bs : List Byte) {s : State} (h : StateInv s) : AnswersInv (feedAll bs s) := by
  induction bs generalizing s with
  | nil => exact ⟨s, rfl, h⟩
  | cons b bs ih =>
    obtain ⟨t, ht, hti⟩ := execFeed_answersInv b h
    rw [feedAll_cons, ht, andThen_next]
    exact ih hti

/-- RESET: the cursor is 0, so no cell needs to be written, and the cache is empty. -/
theorem execReset_answersInv {s : State} (h : StateInv s) : AnswersInv (execReset s) :=
  ⟨_, rfl,
    { config := h.config
      layout := h.layout
      seq := (seqInv_awaitHeader rfl).2 (.inl rfl)
      buf := ⟨h.buf.canonical, nofun, h.buf.short, Nat.zero_le _⟩
      counter := Nat.two_pow_pos _
      cache := nofun }⟩

theorem issue_answersInv (o : Op) {s : State} (h : StateInv s) : AnswersInv (issue o s) := by
  cases o with
  | reset => exact execReset_answersInv h
  | feed b => exact execFeed_answersInv b h
  | latest => exact ⟨_, rfl, h.emit _⟩
  | register hd => exact ⟨_, rfl, h.of_same_frame rfl rfl rfl rfl h.counter h.cache⟩
  | feeds bs => exact feedAll_answersInv bs h

/-- From the invariant a step answers, and what it answers satisfies the invariant. -/
theorem step_answersInv {s : State} (h : StateInv s) : AnswersInv (step s) := by
  cases hinp : s.inp with
  | nil => exact ⟨s, step_of_nil h.config hinp, h⟩
  | cons o rest =>
    rw [step_of_cons h.config hinp]
    exact issue_answersInv o (h.withInp rest)

/-! ## The obligations -/

/-- Settles O1: each register of `State.reset` is the literal, and its buffer lists no cell. -/
theorem resetStateHasResetValues : Obligations.ResetStateHasResetValues :=
  ⟨rfl, rfl, rfl, rfl, rfl, read_nil⟩

/-- Settles O45: with the cursor at 0 and the buffer and cache empty only the default configuration is to be tested. -/
theorem invariantHoldsAtReset : Obligations.InvariantHoldsAtReset where
  config := by decide
  layout := rfl
  seq := (seqInv_awaitHeader rfl).2 (.inl rfl)
  buf := ⟨reset_buf_wf, nofun, fun a _ => read_nil a, Nat.zero_le _⟩
  counter := Nat.two_pow_pos _
  cache := nofun

/-- Settles O46: the state a step answers from the invariant is the one that was shown to satisfy it. -/
theorem stepKeepsTheInvariant : Obligations.StepKeepsTheInvariant := by
  intro s t h ht
  obtain ⟨t', ht', hinv⟩ := step_answersInv h
  obtain rfl : t' = t := by simpa [ht'] using ht
  exact hinv

end Sys2Proof.Machine
end

section
/-! Proofs: no instruction reaches past the capacity, and only RESET empties the cache (`10_state.md` R25, R29). -/

namespace Sys2Proof.Machine

/-! ## The capacity -/

/-- The configuration and the cells at or above CAP are as in `s`, and a cursor within CAP in `s` is within it in `t`. -/
def WithinCap (s t : State) : Prop :=
  t.cfg = s.cfg ∧ (∀ a, s.cfg.cap ≤ a → t.buf.read a = s.buf.read a) ∧ (s.cur ≤ s.cfg.cap → t.cur ≤ s.cfg.cap)

theorem withinCap_of_same {s t : State} (hcfg : t.cfg = s.cfg) (hbuf : t.buf = s.buf) (hcur : t.cur = s.cur) :
    WithinCap s t :=
  ⟨hcfg, fun _ _ => by rw [hbuf], fun h => hcur ▸ h⟩

theorem withinCap_emit (s : State) (o : Output) : WithinCap s (s.emit o) := withinCap_of_same rfl rfl rfl

theorem WithinCap.trans {s m t : State} (hm : WithinCap s m) (ht : WithinCap m t) : WithinCap s t := by
  obtain ⟨mcfg, mread, mcur⟩ := hm
  obtain ⟨tcfg, tread, tcur⟩ := ht
  rw [mcfg] at tread tcur
  exact ⟨tcfg.trans mcfg, fun a ha => (tread a ha).trans (mread a ha), fun h => tcur (mcur h)⟩

/-- The store offset is below CAP, so no cell from CAP on is it, and the cursor moves to CAP at most. -/
theorem microOp_withinCap {u : MicroOp} {b : Byte} {s m : State} {e : Event} (h : microOp u b s = .next (m, e)) :
    WithinCap s m := by
  obtain ⟨mcfg, -⟩ := microOp_frame h
  refine ⟨mcfg, fun a ha => microOp_read_other h fun hst => ?_, fun hcur => ?_⟩
  · obtain ⟨-, -, hlt⟩ := microOp_read_stored h hst
    omega
  · cases hst : storeOffset u s.cur with
    | none => exact (microOp_cur_of_not_stores h hst).symm ▸ hcur
    | some a =>
      obtain ⟨-, hm, hlt⟩ := microOp_read_stored h hst
      omega

theorem execStep_withinCap {e : Event} {s t : State} (h : execStep e s = .next t) : WithinCap s t := by
  obtain ⟨tcfg, -, tbuf, tcur, -⟩ := execStep_frame h
  exact withinCap_of_same tcfg tbuf tcur

theorem runSelected_withinCap {u : MicroOp} {b : Byte} {s t : State} (h : runSelected u b s = .next t) :
    WithinCap s t := by
  obtain ⟨-, m, e, hm, rfl⟩ := runSelected_eq_next.1 h
  exact (microOp_withinCap hm).trans (withinCap_emit m _)

theorem execFeed_withinCap {b : Byte} {s t : State} (h : execFeed b s = .next t) : WithinCap s t := by
  obtain ⟨u, m, e, -, hm, ht⟩ := execFeed_eq_next.1 h
  exact (microOp_withinCap hm).trans (execStep_withinCap ht)

theorem feedAll_withinCap {bs : List Byte} {s t : State} (h : feedAll bs s = .next t) : WithinCap s t :=
  feedAll_keeps (P := WithinCap s) (fun _ _ _ hm ht => hm.trans (execFeed_withinCap ht))
    (withinCap_of_same rfl rfl rfl) h

theorem answerPure_withinCap {α : Type} {o : Res α} {f : α → Output} {s t : State}
    (h : answerPure s o f = .next t) : WithinCap s t := by
  obtain ⟨v, -, rfl⟩ := answerPure_eq_next.1 h
  exact withinCap_emit s _

theorem execReset_withinCap {s t : State} (h : execReset s = .next t) : WithinCap s t := by
  cases h
  exact ⟨rfl, fun _ _ => rfl, fun _ => Nat.zero_le _⟩

theorem execNotify_withinCap {r : MeasurementRecord} {s t : State} (h : execNotify r s = .next t) : WithinCap s t := by
  cases h
  exact withinCap_of_same (by simp) (by simp) (by simp)

/-- Settles O48: RESET and the micro-operations move the cursor, a FEED and a frame do what micro-operations and STEP do, and the
rest write neither `buf` nor `cur`. -/
theorem nothingIsWrittenPastTheCapacity : Obligations.NothingIsWrittenPastTheCapacity := by
  intro i s t h
  show WithinCap s t
  cases i with
  | reset => exact execReset_withinCap h
  | feed b => exact execFeed_withinCap h
  | sync b | skip b | kindM b | kindH b | kindI b | abandon b | ovf b | acc b | finM b | finH b | finI b =>
    exact runSelected_withinCap h
  | validate B n | crc8 B lo hi | get8 B a | get16le B a | decode B => exact answerPure_withinCap h
  | latest | register hd | crc8Upd c d | publish r | pass k => cases h; exact withinCap_of_same rfl rfl rfl
  | step e => exact execStep_withinCap h
  | notify r => exact execNotify_withinCap h
  | frameM r | frameH f | frameI f => exact feedAll_withinCap h

/-! ## The cache -/

/-- By what FEED publishes: nothing, and the cache is as before, or a record, and the cache holds it. -/
theorem execFeed_keeps_cached {b : Byte} {s t : State} (hs : s.latest ≠ none) (h : execFeed b s = .next t) :
    t.latest ≠ none := by
  obtain ⟨-, -, -, -, -, r, -, hnone, hsome⟩ := feedFrame b s t h
  cases hr : r.published with
  | none => rwa [hnone hr]
  | some x => simp [hsome x hr]

/-- Settles O50: LATEST and REGISTER do not write the cache, and a FEED writes a record or nothing. -/
theorem cacheIsEmptiedOnlyByReset : Obligations.CacheIsEmptiedOnlyByReset := by
  intro o s t h hs ho
  cases o with
  | reset => exact absurd rfl ho
  | feed b => exact execFeed_keeps_cached hs h
  | latest => cases h; exact hs
  | register hd => cases h; exact hs
  | feeds bs => exact feedAll_keeps (P := fun s => s.latest ≠ none) (fun _ _ _ => execFeed_keeps_cached) hs h

end Sys2Proof.Machine
end

section
/-! Proofs: what a micro-operation run on its own writes and what it leaves alone (`20_memory.md` R51). -/

namespace Sys2Proof.Machine

/-- A micro-operation that stores nothing leaves every cell as it is. -/
theorem microOp_read_of_not_stores {u : MicroOp} {b : Byte} {s m : State} {e : Event}
    (h : microOp u b s = .next (m, e)) (hn : storeOffset u s.cur = none) (a : Nat) : m.buf.read a = s.buf.read a :=
  microOp_read_other h (by simp [hn])

/-- A micro-operation that stores leaves every cell but the one it stores in as it is. -/
theorem microOp_read_of_ne_stored {u : MicroOp} {b : Byte} {s m : State} {e : Event} {x a : Nat}
    (h : microOp u b s = .next (m, e)) (hx : storeOffset u s.cur = some x) (ha : a ≠ x) :
    m.buf.read a = s.buf.read a :=
  microOp_read_other h (by simpa [hx] using ha.symm)

/-- Settles O13: run on its own, a micro-operation does what FEED does with it and appends an output, so its frame and the cells
are those of `microOp`, by whether it stores. -/
theorem microOperationFrame : Obligations.MicroOperationFrame := by
  intro u b s t h
  rw [exec_instr] at h
  obtain ⟨-, m, e, hm, rfl⟩ := runSelected_eq_next.1 h
  obtain ⟨hcfg, hlatest, hhandler, hdropcnt, hinp, -⟩ := microOp_frame hm
  simp only [emit_latest, emit_handler, emit_dropcnt, emit_cfg, emit_inp, emit_cur, emit_buf]
  refine ⟨hlatest, hhandler, hdropcnt, hcfg, hinp, fun hn => ?nothing, fun x hx => ?stored⟩
  case nothing => exact ⟨microOp_cur_of_not_stores hm hn, microOp_read_of_not_stores hm hn⟩
  case stored =>
    obtain ⟨hread, hcur, -⟩ := microOp_read_stored hm hx
    exact ⟨hcur, hread, fun _ ha => microOp_read_of_ne_stored hm hx ha⟩

end Sys2Proof.Machine
end

section
/-! Proofs: which micro-operation a byte selects, by tests and by the rows of `opcode_table.json`, and what one is as an
instruction (`30_encoding.md` R88, R97). -/

namespace Sys2Proof

/-! ## Classification of a kind byte, one condition per class -/

theorem classify_eq_measurement {c : Config} {b : Byte} : classify c b = .measurement ↔ b = c.measMarker := by
  unfold classify
  split_ifs <;> simp_all

theorem classify_eq_health {c : Config} {b : Byte} :
    classify c b = .health ↔ b ≠ c.measMarker ∧ b = c.healthMarker := by
  unfold classify
  split_ifs <;> simp_all

theorem classify_eq_manufacturerInfo {c : Config} {b : Byte} :
    classify c b = .manufacturerInfo ↔ b ≠ c.measMarker ∧ b ≠ c.healthMarker ∧ b = c.manufMarker := by
  unfold classify
  split_ifs <;> simp_all

theorem classify_eq_unrecognized {c : Config} {b : Byte} :
    classify c b = .unrecognized ↔ b ≠ c.measMarker ∧ b ≠ c.healthMarker ∧ b ≠ c.manufMarker := by
  unfold classify
  split_ifs <;> simp_all

/-! ## Selection by the ordered tests -/

/-- The selecting condition of each micro-operation (`30_encoding.md` R88); `select_eq_some` ties it to the tests. -/
def SelectedWhen (c : Config) (st : DecoderState) (cur : Nat) (b : Byte) : MicroOp → Prop
  | .sync => st = .awaitHeader ∧ b = c.header
  | .skip => st = .awaitHeader ∧ b ≠ c.header
  | .kindM => st = .awaitKind ∧ b = c.measMarker
  | .kindH => st = .awaitKind ∧ b ≠ c.measMarker ∧ b = c.healthMarker
  | .kindI => st = .awaitKind ∧ b ≠ c.measMarker ∧ b ≠ c.healthMarker ∧ b = c.manufMarker
  | .abandon => st = .awaitKind ∧ b ≠ c.measMarker ∧ b ≠ c.healthMarker ∧ b ≠ c.manufMarker
  | .ovf => (∃ k, st = .accumulating k) ∧ c.cap ≤ cur
  | .acc => ∃ k, st = .accumulating k ∧ cur < c.cap ∧ cur + 1 < c.lenOf k
  | .finM => st = .accumulating .measurement ∧ cur < c.cap ∧ cur + 1 = c.lenMeas
  | .finH => st = .accumulating .health ∧ cur < c.cap ∧ cur + 1 = c.lenHealth
  | .finI => st = .accumulating .manufacturerInfo ∧ cur < c.cap ∧ cur + 1 = c.lenManuf

section

variable {c : Config} {st : DecoderState} {cur : Nat} {b : Byte} {u : MicroOp}

theorem selectedWhen_finOf {k : Kind} :
    SelectedWhen c st cur b (finOf k) ↔ st = .accumulating k ∧ cur < c.cap ∧ cur + 1 = c.lenOf k := by
  cases k <;> rfl

theorem selectedWhen_of_select (h : select c st cur b = some u) : SelectedWhen c st cur b u := by
  cases st with
  | awaitHeader =>
    simp only [select] at h
    split at h <;> cases h <;> exact ⟨rfl, ‹_›⟩
  | awaitKind =>
    simp only [select] at h
    split at h <;> cases h
    · exact ⟨rfl, classify_eq_measurement.1 ‹_›⟩
    · exact ⟨rfl, classify_eq_health.1 ‹_›⟩
    · exact ⟨rfl, classify_eq_manufacturerInfo.1 ‹_›⟩
    · exact ⟨rfl, classify_eq_unrecognized.1 ‹_›⟩
  | accumulating k =>
    simp only [select] at h
    split_ifs at h with hfull hmore hlast <;> cases h
    · exact ⟨⟨k, rfl⟩, hfull⟩
    · exact ⟨k, rfl, Nat.lt_of_not_le hfull, hmore⟩
    · exact selectedWhen_finOf.2 ⟨rfl, Nat.lt_of_not_le hfull, hlast⟩

theorem select_finOf {k : Kind} (hcap : cur < c.cap) (hlast : cur + 1 = c.lenOf k) :
    select c (.accumulating k) cur b = some (finOf k) := by
  simp [select, Nat.not_le_of_lt hcap, hlast]

theorem select_of_selectedWhen (h : SelectedWhen c st cur b u) : select c st cur b = some u := by
  cases u with
  | sync => obtain ⟨rfl, hb⟩ := h; exact if_pos hb
  | skip => obtain ⟨rfl, hb⟩ := h; exact if_neg hb
  | kindM => obtain ⟨rfl, hb⟩ := h; simp only [select, classify_eq_measurement.2 hb]
  | kindH => obtain ⟨rfl, hb⟩ := h; simp only [select, classify_eq_health.2 hb]
  | kindI => obtain ⟨rfl, hb⟩ := h; simp only [select, classify_eq_manufacturerInfo.2 hb]
  | abandon => obtain ⟨rfl, hb⟩ := h; simp only [select, classify_eq_unrecognized.2 hb]
  | ovf => obtain ⟨⟨k, rfl⟩, hcap⟩ := h; exact if_pos hcap
  | acc => obtain ⟨k, rfl, hcap, hmore⟩ := h; simp [select, Nat.not_le_of_lt hcap, hmore]
  | finM | finH | finI => obtain ⟨rfl, hcap, hlast⟩ := h; exact select_finOf hcap hlast

/-- Each micro-operation is selected exactly where its condition holds. -/
theorem select_eq_some : select c st cur b = some u ↔ SelectedWhen c st cur b u :=
  ⟨selectedWhen_of_select, select_of_selectedWhen⟩

/-- In AwaitKind the tests are those of the three markers, in order. -/
theorem select_awaitKind_eq_ite (c : Config) (cur : Nat) (b : Byte) :
    select c .awaitKind cur b =
      if b = c.measMarker then some .kindM else if b = c.healthMarker then some .kindH
      else if b = c.manufMarker then some .kindI else some .abandon := by
  simp only [select, classify]
  split_ifs <;> rfl

/-- While accumulating, the test of the capacity may be repeated in the tests after it, as the rows do. -/
theorem select_accumulating_eq_ite (c : Config) (k : Kind) (cur : Nat) (b : Byte) :
    select c (.accumulating k) cur b =
      if c.cap ≤ cur then some .ovf else if cur < c.cap ∧ cur + 1 < c.lenOf k then some .acc
      else if cur < c.cap ∧ cur + 1 = c.lenOf k then some (finOf k) else none := by
  by_cases hcap : c.cap ≤ cur
  · simp [select, hcap]
  · simp [select, hcap, Nat.lt_of_not_le hcap]

/-! ## Micro-operations as instructions -/

/-- Each micro-operation's instruction is encoded as its byte. -/
@[simp] theorem encode_instr (u : MicroOp) (b : Byte) : encode (u.instr b) = some [b] := by cases u <;> rfl

theorem decodeByte_eq_ok {i : Instr} :
    decodeByte c st cur b = .ok i ↔ ∃ u, select c st cur b = some u ∧ u.instr b = i := by
  unfold decodeByte
  split <;> simp_all

/-- What is selected is well-formed: the part of its condition that is about the byte is its operand condition. -/
theorem wf_of_select (h : select c st cur b = some u) : (u.instr b).wf c = true := by
  have hu := selectedWhen_of_select h
  cases u with
  | sync | skip | kindM | kindH | kindI | abandon => exact decide_eq_true hu.2
  | ovf | acc | finM | finH | finI => rfl

theorem exists_select_finOf (hw : c.wf) (k : Kind) (b : Byte) : ∃ st cur, select c st cur b = some (finOf k) := by
  have hlen := Machine.lenOf_bounds hw k
  exact ⟨.accumulating k, c.lenOf k - 1, select_finOf (by omega) (by omega)⟩

/-- Every well-formed micro-operation is selected somewhere: lengths and capacity leave room for ACC and FIN. -/
theorem exists_select_of_wf (hw : c.wf) (h : (u.instr b).wf c = true) : ∃ st cur, select c st cur b = some u := by
  cases u with
  | sync | skip => exact ⟨.awaitHeader, 0, select_of_selectedWhen ⟨rfl, of_decide_eq_true h⟩⟩
  | kindM | kindH | kindI | abandon => exact ⟨.awaitKind, 1, select_of_selectedWhen ⟨rfl, of_decide_eq_true h⟩⟩
  | ovf => exact ⟨.accumulating .measurement, c.cap, select_of_selectedWhen ⟨⟨_, rfl⟩, le_rfl⟩⟩
  | acc =>
    have hlen := Machine.lenOf_bounds hw .measurement
    exact ⟨.accumulating .measurement, 1, select_of_selectedWhen ⟨_, rfl, by omega, hlen.1⟩⟩
  | finM => exact exists_select_finOf hw .measurement b
  | finH => exact exists_select_finOf hw .health b
  | finI => exact exists_select_finOf hw .manufacturerInfo b

end

/-! ## Selection by the rows -/

/-- Of rows in rising order of priority the first is the one tested first. -/
theorem firstByPriority_of_sorted {rows : List MicroRow} (h : rows.Pairwise fun x y => x.priority ≤ y.priority) :
    firstByPriority rows = rows.head? := by
  induction h with
  | nil => rfl
  | @cons row rows hle _ ih =>
    rw [firstByPriority, ih]
    cases rows with
    | nil => rfl
    | cons other rows => exact if_neg (Nat.not_lt_of_le (hle other List.mem_cons_self))

/-- Among the rows of one decoder state the table's order is the order of priority. -/
theorem microRows_sorted (st : DecoderState) :
    (microRows.filter fun row => row.state.covers st).Pairwise fun x y => x.priority ≤ y.priority := by
  cases st with
  | awaitHeader => decide
  | awaitKind => decide
  | accumulating k => cases k <;> decide

/-- So selection by priority is selection of the first row, in the table's order, that applies. -/
theorem selectByRows_eq_find? (c : Config) (st : DecoderState) (cur : Nat) (b : Byte) :
    selectByRows c st cur b = (microRows.find? fun row => row.applies c st cur b).map MicroRow.op := by
  have hsub : (microRows.filter fun row => row.applies c st cur b).Sublist
      (microRows.filter fun row => row.state.covers st) :=
    List.monotone_filter_right _ fun row h => by simp_all [MicroRow.applies]
  rw [selectByRows, firstByPriority_of_sorted ((microRows_sorted st).sublist hsub), List.head?_filter]

theorem map_op_find?_cons (p : MicroRow → Bool) (row : MicroRow) (rows : List MicroRow) :
    ((row :: rows).find? p).map MicroRow.op = if p row then some row.op else (rows.find? p).map MicroRow.op := by
  rw [List.find?_cons]
  cases p row <;> rfl

/-! ## The obligations -/

/-- Settles O14: the conditions are `SelectedWhen`, clause by clause. -/
theorem selectionConditions : Obligations.SelectionConditions := fun _ _ _ _ =>
  ⟨select_eq_some, select_eq_some, select_eq_some, select_eq_some, select_eq_some, select_eq_some, select_eq_some,
    select_eq_some, select_eq_some, select_eq_some, select_eq_some⟩

/-- Settles O15: the first row that applies, in each decoder state, is the first of the ordered tests that holds. -/
theorem selectionIsTheOpcodeTable : Obligations.SelectionIsTheOpcodeTable := by
  intro c st cur b
  have hmask : b &&& 255#8 = b := BitVec.and_allOnes -- the mask 0xFF as `simp` spells it
  rw [selectByRows_eq_find?]
  simp only [microRows, List.cons_append, List.nil_append, map_op_find?_cons, List.find?_nil, Option.map_none]
  cases st with
  | awaitHeader => simp [select, MicroRow.applies, RowState.covers, RowCursor.holds, RowMatch.value, hmask]
  | awaitKind =>
    simp [select_awaitKind_eq_ite, MicroRow.applies, RowState.covers, RowCursor.holds, RowMatch.value, Config.markerOf, hmask]
  | accumulating k =>
    rw [select_accumulating_eq_ite]
    cases k <;> simp [MicroRow.applies, RowState.covers, RowCursor.holds, RowMatch.value, finOf]

/-- Settles O39: a byte decodes to what it selects, and every well-formed micro-operation is selected in some state. -/
theorem microOperationsDecodeAndEncodeAgree : Obligations.MicroOperationsDecodeAndEncodeAgree := by
  refine ⟨fun c st cur b i h => ?_, fun c u b hw h => ⟨encode_instr u b, ?_⟩⟩
  · obtain ⟨u, hu, rfl⟩ := decodeByte_eq_ok.1 h
    exact ⟨wf_of_select hu, encode_instr u b⟩
  · obtain ⟨st, cur, hu⟩ := exists_select_of_wf hw h
    exact ⟨st, cur, decodeByte_eq_ok.2 ⟨u, hu, rfl⟩⟩

namespace Machine

theorem runSelected_of_not {u : MicroOp} {b : Byte} {s : State} (h : select s.cfg s.st s.cur b ≠ some u) :
    runSelected u b s = .refused (.notSelected u) := if_neg h

/-- Settles O16: the invariant takes every byte; OVF would need the cursor at CAP, and the frame it is in ends before. -/
theorem reachableStatesSelectAndNeverOverflow : Obligations.ReachableStatesSelectAndNeverOverflow := by
  intro s b h
  obtain ⟨u, -, -, hu, -⟩ := h.takesByte b
  refine ⟨u, hu, ?_⟩
  rintro rfl
  obtain ⟨⟨k, hst⟩, hcap⟩ := selectedWhen_of_select hu
  obtain ⟨-, hcur, -⟩ := (seqInv_accumulating hst).1 h.seq
  have hlen := lenOf_bounds h.config k
  omega

/-- Settles O12: the micro-operation's instruction tests the selection before anything else. -/
theorem unselectedMicroOperationIsRefused : Obligations.UnselectedMicroOperationIsRefused := by
  intro u b s h
  rw [exec_instr, runSelected_of_not h]

end Machine
end Sys2Proof
end

section
/-! Proofs: a burst is its FEEDs, one step each (`30_encoding.md` R96, `20_memory.md` R60). -/

namespace Sys2Proof.Machine

/-! ## Running one step more, by what the first step answers -/

theorem run_succ_of_next {n : Nat} {s t : State} (h : step s = .next t) :
    Host.Core.run core (n + 1) s = Host.Core.run core n t := by
  simp only [Host.Core.run, show core.step s = .next t from h]

theorem run_succ_of_fault {n : Nat} {s : State} {r : Fault} (h : step s = .fault r) :
    Host.Core.run core (n + 1) s = .fault r := by
  simp only [Host.Core.run, show core.step s = .fault r from h]

theorem run_succ_of_refused {n : Nat} {s : State} {r : Refusal} (h : step s = .refused r) :
    Host.Core.run core (n + 1) s = .refused r := by
  simp only [Host.Core.run, show core.step s = .refused r from h]

/-! ## A burst -/

/-- A FEED does not write the parameters. -/
theorem execFeed_cfg {b : Byte} {s t : State} (h : execFeed b s = .next t) : t.cfg = s.cfg := by
  obtain ⟨hcfg, -⟩ := feedFrame b s t h
  exact hcfg

/-- A step with a byte pending is its FEED, with the rest pending afterwards. -/
theorem step_feed (b : Byte) (l : List Op) {s : State} (hw : s.cfg.wf) :
    step (withInp (.feed b :: l) s) = andThen (execFeed b s) fun t => .next (withInp l t) :=
  (step_of_cons (s := withInp (.feed b :: l) s) hw rfl).trans (execFeed_withInp b l s)

/-- By induction on the bytes: the first FEED is the first step, and it leaves the configuration admissible. -/
theorem feedAll_eq_run (bs : List Byte) (rest : List Op) {s : State} (hw : s.cfg.wf) :
    feedAll bs (withInp rest s) = Host.Core.run core bs.length (withInp (bs.map Op.feed ++ rest) s) := by
  induction bs generalizing s with
  | nil => rfl
  | cons b bs ih =>
    have hstep := step_feed b (bs.map Op.feed ++ rest) hw
    rw [feedAll_cons, execFeed_withInp]
    cases h : execFeed b s with
    | fault r =>
      rw [h, andThen_fault] at hstep
      exact (run_succ_of_fault hstep).symm
    | refused r =>
      rw [h, andThen_refused] at hstep
      exact (run_succ_of_refused hstep).symm
    | next t =>
      rw [h, andThen_next] at hstep
      exact (ih (execFeed_cfg h ▸ hw)).trans (run_succ_of_next hstep).symm

/-- Settles O44: a step on a burst feeds its bytes, and that is one step for each. -/
theorem burstIsItsFeeds : Obligations.BurstIsItsFeeds := by
  intro s bs rest hw
  exact (step_of_cons (s := withInp (.feeds bs :: rest) s) hw rfl).trans (feedAll_eq_run bs rest hw)

end Sys2Proof.Machine
end

section
/-! Proofs: frames decode and encode to each other (`30_encoding.md` R82, R83, R85; `42_record_decode.md` R163). -/

namespace Sys2Proof

/-! ## Frames to bytes and back -/

/-- The short frame extracted from `B` has the bytes of `B` at offsets 0 to 11. -/
theorem shortOf_toBytes (B : Nat → Byte) : (shortOf B).toBytes = (List.range 12).map B := by
  simp [ShortFrame.toBytes, shortOf, Vector.toList_ofFn, List.ofFn_succ, List.range_succ]

theorem map_byteAt_range_take {bs : List Byte} {n : Nat} (h : n ≤ bs.length) :
    (List.range n).map (byteAt bs) = bs.take n :=
  List.ext_getElem (by simp [h]) fun i _ hi => by
    simp only [List.length_take] at hi
    simp [byteAt_of_lt (show i < bs.length by omega)]

/-- What follows an array does not change the bytes inside it. -/
theorem byteAt_append_left {bs rest : List Byte} {x : Nat} (h : x < bs.length) :
    byteAt (bs ++ rest) x = byteAt bs x := by
  simp [byteAt, List.getElem?_append_left h]

theorem byteAt_append_right (as bs : List Byte) (j : Nat) : byteAt (as ++ bs) (as.length + j) = byteAt bs j := by
  simp [byteAt, List.getElem?_append_right]

/-- Point `i` of consecutive points begins at byte `3i`. -/
theorem byteAt_flatMap_pointBytes {ps : List Point} {i j : Nat} (hi : i < ps.length) (hj : j < 3) :
    byteAt (ps.flatMap Point.toBytes) (3 * i + j) = byteAt ps[i].toBytes j := by
  induction ps generalizing i with
  | nil => simp at hi
  | cons p ps ih =>
    rw [List.flatMap_cons]
    cases i with
    | zero =>
      rw [Nat.mul_zero, Nat.zero_add]
      exact byteAt_append_left hj
    | succ i =>
      rw [show 3 * (i + 1) + j = p.toBytes.length + (3 * i + j) by rw [pointBytes_length]; omega, byteAt_append_right]
      exact ih (by simpa using hi)

/-- The bytes of a record's points stand from offset 6 on (`20_memory.md` R57). -/
theorem byteAt_recordBytes_point (r : MeasurementRecord) {i j : Nat} (hi : i < 12) (hj : j < 3) :
    byteAt r.toBytes (6 + (3 * i + j)) = byteAt r.points[i].toBytes j := by
  have hlen : (r.points.toList.flatMap Point.toBytes).length = 36 := by simp [List.length_flatMap]
  rw [MeasurementRecord.toBytes, List.append_assoc]
  refine (byteAt_append_right [_, _, _, _, _, _] _ (3 * i + j)).trans ?_
  rw [byteAt_append_left (by omega), byteAt_flatMap_pointBytes (by simpa using hi) hj, Vector.getElem_toList]

/-- The fields after the points stand from offset 42 on (`20_memory.md` R57). -/
theorem byteAt_recordBytes_tail (r : MeasurementRecord) (j : Nat) :
    byteAt r.toBytes (42 + j) =
      byteAt [loByte r.endAngle, hiByte r.endAngle, loByte r.timestamp, hiByte r.timestamp, r.crc] j := by
  have hlen : ([r.header, r.verLen, loByte r.speed, hiByte r.speed, loByte r.startAngle, hiByte r.startAngle] ++
      r.points.toList.flatMap Point.toBytes).length = 42 := by simp [List.length_flatMap]
  rw [MeasurementRecord.toBytes, ← hlen, byteAt_append_right]

theorem pointOf_recordBytes (r : MeasurementRecord) {i : Nat} (hi : i < 12) :
    pointOf (byteAt r.toBytes) i = r.points[i] := by
  have hlo : byteAt r.toBytes (6 + 3 * i) = loByte r.points[i].distance :=
    byteAt_recordBytes_point r hi (j := 0) (by omega)
  have hhi : byteAt r.toBytes (7 + 3 * i) = hiByte r.points[i].distance := by
    rw [show 7 + 3 * i = 6 + (3 * i + 1) by omega]
    exact byteAt_recordBytes_point r hi (by omega)
  have hint : byteAt r.toBytes (8 + 3 * i) = r.points[i].intensity := by
    rw [show 8 + 3 * i = 6 + (3 * i + 2) by omega]
    exact byteAt_recordBytes_point r hi (by omega)
  rw [pointOf, hlo, hhi, hint, le16_lo_hi]

/-- Extracting the fields of a record's bytes gives the record back. -/
theorem recordOf_byteAt_recordBytes (r : MeasurementRecord) : recordOf (byteAt r.toBytes) = r := by
  have hpoints : (Vector.ofFn fun i : Fin 12 => pointOf (byteAt r.toBytes) i.val) = r.points :=
    Vector.ext fun i hi => by rw [Vector.getElem_ofFn, pointOf_recordBytes r hi]
  have hspeed : le16 (byteAt r.toBytes 2) (byteAt r.toBytes 3) = r.speed := le16_lo_hi r.speed
  have hangle : le16 (byteAt r.toBytes 4) (byteAt r.toBytes 5) = r.startAngle := le16_lo_hi r.startAngle
  have hend : le16 (byteAt r.toBytes 42) (byteAt r.toBytes 43) = r.endAngle := by
    rw [byteAt_recordBytes_tail r 0, byteAt_recordBytes_tail r 1]
    exact le16_lo_hi r.endAngle
  have htime : le16 (byteAt r.toBytes 44) (byteAt r.toBytes 45) = r.timestamp := by
    rw [byteAt_recordBytes_tail r 2, byteAt_recordBytes_tail r 3]
    exact le16_lo_hi r.timestamp
  have hcrc : byteAt r.toBytes 46 = r.crc := byteAt_recordBytes_tail r 4
  rw [recordOf, hspeed, hangle, hpoints, hend, htime, hcrc]
  rfl

theorem byteAt_shortBytes_body (f : ShortFrame) {i : Nat} (hi : i < 9) : byteAt f.toBytes (2 + i) = f.body[i] := by
  rw [ShortFrame.toBytes, List.append_assoc]
  refine (byteAt_append_right [_, _] _ i).trans ?_
  rw [byteAt_append_left (by simpa using hi), byteAt_of_lt (by simpa using hi), Vector.getElem_toList]

theorem byteAt_shortBytes_crc (f : ShortFrame) : byteAt f.toBytes 11 = f.crc := by
  have hlen : ([f.header, f.marker] ++ f.body.toList).length = 11 := by simp
  rw [ShortFrame.toBytes, ← hlen]
  exact byteAt_append_right _ [f.crc] 0

theorem shortOf_byteAt_shortBytes (f : ShortFrame) : shortOf (byteAt f.toBytes) = f := by
  have hbody : (Vector.ofFn fun i : Fin 9 => byteAt f.toBytes (2 + i.val)) = f.body :=
    Vector.ext fun i hi => by rw [Vector.getElem_ofFn, byteAt_shortBytes_body f hi]
  rw [shortOf, hbody, byteAt_shortBytes_crc]
  rfl

theorem shortOf_congr {B B' : Nat → Byte} (h : ∀ x, x < 12 → B x = B' x) : shortOf B = shortOf B' := by
  have hbody : (Vector.ofFn fun i : Fin 9 => B (2 + i.val)) = Vector.ofFn fun i : Fin 9 => B' (2 + i.val) := by
    congr 1
    funext i
    exact h _ (by omega)
  rw [shortOf, hbody, h 0, h 1, h 11]
  · rfl
  all_goals omega

/-! ## What the frame decoder answers -/

/-- The two tests before a format is decoded: its configured length, and that all its bytes are there. -/
theorem format_eq_ok {α : Type} {len fmt n : Nat} {x y : α} :
    (if len ≠ fmt then .error Reject.notTheFormat else if n < fmt then .error .tooShort else .ok x) = Except.ok y ↔
      len = fmt ∧ fmt ≤ n ∧ x = y := by
  by_cases hlen : len = fmt
  · by_cases hn : n < fmt
    · simp [hlen, hn, Nat.not_le_of_lt hn]
    · simp [hlen, hn, Nat.le_of_not_lt hn]
  · simp [hlen]

/-- The frame instruction of a kind whose byte at offset `x` is `B x`; `decodeFrame_eq_ok` ties it to the decoder. -/
def frameOf (k : Kind) (B : Nat → Byte) : Instr :=
  match k with
  | .measurement => .frameM (recordOf B)
  | .health => .frameH (shortOf B)
  | .manufacturerInfo => .frameI (shortOf B)

/-- The length of the format of a kind (`30_encoding.md` R82, R83). -/
def formatBytes : Kind → Nat
  | .measurement => formatMBytes
  | .health => formatSBytes
  | .manufacturerInfo => formatSBytes

theorem kindAsFrameKind_injective : Function.Injective Machine.kindAsFrameKind := by
  intro k k' h
  cases k <;> cases k' <;> cases h <;> rfl

theorem exists_kindAsFrameKind_eq {P : Kind → Prop} (k : Kind) :
    (∃ k', Machine.kindAsFrameKind k = Machine.kindAsFrameKind k' ∧ P k') ↔ P k := by
  simp [kindAsFrameKind_injective.eq_iff]

/-- A frame is decoded exactly when it begins with HEADER and a marker, has the length of its format and is there as a whole
(`30_encoding.md` R81 to R85). -/
theorem decodeFrame_eq_ok {c : Config} {bs rest : List Byte} {i : Instr} :
    decodeFrame c bs = .ok (i, rest) ↔ byteAt bs 0 = c.header ∧
      ∃ k, classify c (byteAt bs 1) = Machine.kindAsFrameKind k ∧ c.lenOf k = formatBytes k ∧
        formatBytes k ≤ bs.length ∧ (frameOf k (byteAt bs), bs.drop (formatBytes k)) = (i, rest) := by
  match bs with
  | [] =>
    have hshort : ∀ k, ¬ formatBytes k ≤ 0 := by rintro ⟨⟩ <;> decide
    simp [decodeFrame, hshort]
  | [h] =>
    have hshort : ∀ k, ¬ formatBytes k ≤ 1 := by rintro ⟨⟩ <;> decide
    by_cases hh : h = c.header <;> simp [decodeFrame, hh, hshort]
  | h :: m :: tl =>
    have h0 : byteAt (h :: m :: tl) 0 = h := rfl
    have h1 : byteAt (h :: m :: tl) 1 = m := rfl
    rw [h0, h1, decodeFrame]
    by_cases hh : h = c.header
    · rw [if_neg (not_not.2 hh), and_iff_right hh]
      cases classify c m with
      | measurement =>
        refine Iff.trans ?_ (exists_kindAsFrameKind_eq .measurement).symm
        exact format_eq_ok
      | health =>
        refine Iff.trans ?_ (exists_kindAsFrameKind_eq .health).symm
        exact format_eq_ok
      | manufacturerInfo =>
        refine Iff.trans ?_ (exists_kindAsFrameKind_eq .manufacturerInfo).symm
        exact format_eq_ok
      | unrecognized =>
        have hk : ∀ k, FrameKind.unrecognized ≠ Machine.kindAsFrameKind k := by rintro ⟨⟩ <;> decide
        simp [hk]
    · simp [hh]

/-! ## The frame instruction of a kind -/

theorem frameOf_congr {k : Kind} {B B' : Nat → Byte} (h : ∀ x, x < formatBytes k → B x = B' x) :
    frameOf k B = frameOf k B' := by
  cases k with
  | measurement => exact congrArg Instr.frameM (Machine.recordOf_congr h)
  | health => exact congrArg Instr.frameH (shortOf_congr h)
  | manufacturerInfo => exact congrArg Instr.frameI (shortOf_congr h)

theorem encode_frameOf (k : Kind) (B : Nat → Byte) :
    encode (frameOf k B) = some ((List.range (formatBytes k)).map B) := by
  cases k with
  | measurement => exact congrArg some (recordOf_toBytes B)
  | health => exact congrArg some (shortOf_toBytes B)
  | manufacturerInfo => exact congrArg some (shortOf_toBytes B)

/-- A frame's operand conditions are what the decoder tests. -/
theorem wf_frameOf {c : Config} {k : Kind} {B : Nat → Byte} :
    (frameOf k B).wf c = true ↔
      c.lenOf k = formatBytes k ∧ B 0 = c.header ∧ classify c (B 1) = Machine.kindAsFrameKind k := by
  cases k with
  | measurement => rw [Machine.kindAsFrameKind, classify_eq_measurement]; exact decide_eq_true_iff
  | health => rw [Machine.kindAsFrameKind, classify_eq_health]; exact decide_eq_true_iff
  | manufacturerInfo => rw [Machine.kindAsFrameKind, classify_eq_manufacturerInfo]; exact decide_eq_true_iff

/-- The bytes of a well-formed frame, whatever follows them, decode to it. -/
theorem decodeFrame_append {c : Config} {k : Kind} {bs : List Byte} {i : Instr} (rest : List Byte)
    (hl : bs.length = formatBytes k) (hi : frameOf k (byteAt bs) = i) (hw : i.wf c = true) :
    decodeFrame c (bs ++ rest) = .ok (i, rest) := by
  have hframe : frameOf k (byteAt (bs ++ rest)) = i :=
    (frameOf_congr fun x hx => byteAt_append_left (hl ▸ hx)).trans hi
  rw [← hframe] at hw
  obtain ⟨hlen, hhdr, hkind⟩ := wf_frameOf.1 hw
  refine decodeFrame_eq_ok.2 ⟨hhdr, k, hkind, hlen, by simp [hl], ?_⟩
  rw [hframe, ← hl, List.drop_left]

/-- Bytes that decode to a frame are its encoding, then the rest. -/
theorem encode_of_decodeFrame {c : Config} {bs rest : List Byte} {i : Instr} (h : decodeFrame c bs = .ok (i, rest)) :
    i.wf c = true ∧ ∃ enc, encode i = some enc ∧ bs = enc ++ rest := by
  obtain ⟨hhdr, k, hkind, hlen, hle, heq⟩ := decodeFrame_eq_ok.1 h
  cases heq
  refine ⟨wf_frameOf.2 ⟨hlen, hhdr, hkind⟩, _, encode_frameOf k _, ?_⟩
  rw [map_byteAt_range_take hle, List.take_append_drop]

/-- Settles O40: every format is decoded from the bytes of its fields, and what the decoder answers is the frame of its bytes. -/
theorem framesDecodeAndEncodeAgree : Obligations.FramesDecodeAndEncodeAgree := by
  refine ⟨fun c r rest hw => ?measurement, fun c f rest hw => ?health, fun c f rest hw => ?manufacturerInfo,
    fun c bs rest i h => encode_of_decodeFrame h⟩
  case measurement =>
    exact decodeFrame_append (k := .measurement) rest (recordBytes_length r)
      (congrArg Instr.frameM (recordOf_byteAt_recordBytes r)) hw
  case health =>
    exact decodeFrame_append (k := .health) rest (shortBytes_length f)
      (congrArg Instr.frameH (shortOf_byteAt_shortBytes f)) hw
  case manufacturerInfo =>
    exact decodeFrame_append (k := .manufacturerInfo) rest (shortBytes_length f)
      (congrArg Instr.frameI (shortOf_byteAt_shortBytes f)) hw

end Sys2Proof
end

section
/-! Proofs: FEED answers in every state of the invariant, and no step from one stops (`40_frame_sync.md` R125,
`60_exceptions.md` R200). -/

namespace Sys2Proof.Machine

/-- A FEED's newest output is its report. -/
theorem execFeed_report {b : Byte} {s t : State} (h : execFeed b s = .next t) : ∃ r o, t.out = .report r :: o := by
  obtain ⟨u, m, e, -, -, ht⟩ := execFeed_eq_next.1 h
  obtain ⟨r, hr, -⟩ := execStep_report ht
  obtain ⟨o, ho⟩ := List.head?_eq_some_iff.1 hr
  exact ⟨r, o, ho⟩

/-- Settles O18: the invariant takes every byte, STEP answers on what it leaves, and what STEP answers ends with its report. -/
theorem feedAlwaysAnswers : Obligations.FeedAlwaysAnswers := by
  intro s b h
  obtain ⟨t, ht, hinv⟩ := execFeed_answersInv b h
  obtain ⟨r, o, ho⟩ := execFeed_report ht
  exact ⟨t, r, o, ht, hinv, ho⟩

/-- Settles O47: whatever operation is pending answers from the invariant; a burst, because each FEED keeps it for the next. -/
theorem stepNeverStops : Obligations.StepNeverStops := by
  intro s h
  obtain ⟨t, ht, -⟩ := step_answersInv h
  exact ⟨t, ht⟩

end Sys2Proof.Machine
end

section
/-! Proofs: what each micro-operation does when it is selected (`40_frame_sync.md` R112 to R122). -/

namespace Sys2Proof.Machine

section

variable {u : MicroOp} {b : Byte} {s : State} {a : Nat}

/-- A selected micro-operation whose store offset is inside the buffer stores its byte there and answers its event. -/
theorem exec_instr_of_stores (h : SelectedWhen s.cfg s.st s.cur b u) (ha : storeOffset u s.cur = some a)
    (hc : a < s.cfg.cap) :
    exec (u.instr b) s = .next ((s.stored (microState u s.st) a b).emit (.event (microEvent u))) := by
  rw [exec_instr, runSelected_of (select_of_selectedWhen h), microOp_of_stores ha hc]
  rfl

/-- A selected micro-operation that stores nothing sets `st` only and answers its event. -/
theorem exec_instr_of_not_stores (h : SelectedWhen s.cfg s.st s.cur b u) (ha : storeOffset u s.cur = none) :
    exec (u.instr b) s = .next (State.emit { s with st := microState u s.st } (.event (microEvent u))) := by
  rw [exec_instr, runSelected_of (select_of_selectedWhen h), microOp_eq_next.2 ⟨rfl, .inl ⟨ha, rfl⟩⟩]
  rfl

/-- The FIN micro-operation of a kind, on the last byte of a frame of that kind (R119 to R121). -/
theorem exec_finOf {k : Kind} (hst : s.st = .accumulating k) (hc : s.cur < s.cfg.cap)
    (hlast : s.cur + 1 = s.cfg.lenOf k) :
    exec ((finOf k).instr b) s =
      .next (State.emit
        { s with st := .awaitHeader, cur := s.cfg.lenOf k, buf := s.buf.write (s.cfg.lenOf k - 1) b }
        (.event (.frameReady k))) := by
  rw [exec_instr_of_stores (selectedWhen_finOf.2 ⟨hst, hc, hlast⟩) (storeOffset_finOf k _) hc, microState_finOf,
    microEvent_finOf, ← hlast]
  rfl

end

/-! ## The obligations -/

/-- Settles O5: SYNC stores at offset 0, whatever the cursor was. -/
theorem syncStartsAFrame : Obligations.SyncStartsAFrame :=
  fun _ _ hst hb hc => exec_instr_of_stores (u := .sync) ⟨hst, hb⟩ rfl hc

/-- Settles O6: SKIP stores nothing and stays in AwaitHeader. -/
theorem skipWritesNothing : Obligations.SkipWritesNothing :=
  fun _ _ hst hb => exec_instr_of_not_stores (u := .skip) ⟨hst, hb⟩ rfl

/-- Settles O7: each clause is the selecting condition of its micro-operation, which stores at the cursor. -/
theorem kindMarkersStartAccumulating : Obligations.KindMarkersStartAccumulating := by
  intro s b hst hc
  refine ⟨fun hm => ?measurement, fun hm hh => ?health, fun hm hh hi => ?manufacturerInfo⟩
  case measurement => exact exec_instr_of_stores (u := .kindM) ⟨hst, hm⟩ rfl hc
  case health => exact exec_instr_of_stores (u := .kindH) ⟨hst, hm, hh⟩ rfl hc
  case manufacturerInfo => exact exec_instr_of_stores (u := .kindI) ⟨hst, hm, hh, hi⟩ rfl hc

/-- Settles O8: ABANDON stores at the cursor; that the byte may be HEADER plays no part in its selection. -/
theorem abandonConsumesAnUnrecognizedKind : Obligations.AbandonConsumesAnUnrecognizedKind :=
  fun _ _ hst hc hm hh hi => exec_instr_of_stores (u := .abandon) ⟨hst, hm, hh, hi⟩ rfl hc

/-- Settles O9: ACC is selected by state and cursor alone and stores at the cursor. -/
theorem accStoresABodyByte : Obligations.AccStoresABodyByte :=
  fun _ _ k hst hc hmore => exec_instr_of_stores (u := .acc) ⟨k, hst, hc, hmore⟩ rfl hc

/-- Settles O10: the three clauses are the FIN micro-operation at the three kinds. -/
theorem finCompletesTheFrame : Obligations.FinCompletesTheFrame := by
  intro s b hc
  refine ⟨fun hst hlast => ?measurement, fun hst hlast => ?health, fun hst hlast => ?manufacturerInfo⟩
  case measurement => exact exec_finOf (k := .measurement) hst hc hlast
  case health => exact exec_finOf (k := .health) hst hc hlast
  case manufacturerInfo => exact exec_finOf (k := .manufacturerInfo) hst hc hlast

/-- Settles O11: OVF stores nothing and returns to AwaitHeader. -/
theorem ovfStoresNothing : Obligations.OvfStoresNothing :=
  fun _ _ k hst hc => exec_instr_of_not_stores (u := .ovf) ⟨⟨k, hst⟩, hc⟩ rfl

end Sys2Proof.Machine
end

section
/-! Proofs: a FEED, and a step, run the instruction that their bytes decode to (`40_frame_sync.md` R111, `43_publish.md` R180,
`30_encoding.md` R82, R83). -/

namespace Sys2Proof.Machine

/-- The state before an output, and the output, can be read off the state after it. -/
theorem emit_inj {s t : State} {o p : Output} : s.emit o = t.emit p ↔ s = t ∧ o = p := by
  cases s
  cases t
  simp only [State.emit, State.mk.injEq, List.cons.injEq]
  tauto

/-- Settles O17: on its own the micro-operation answers the state and the event that FEED hands to STEP. -/
theorem feedIsMicroOperationThenStep : Obligations.FeedIsMicroOperationThenStep := by
  intro b s m u e hu h
  rw [exec_instr] at h
  obtain ⟨-, m', e', hm, hemit⟩ := runSelected_eq_next.1 h
  obtain ⟨rfl, hev⟩ := emit_inj.1 hemit
  cases hev
  exact execFeed_of hu hm

/-- A frame instruction feeds the bytes of its format. -/
theorem exec_frameOf (k : Kind) (B : Nat → Byte) (s : State) :
    exec (frameOf k B) s = feedAll ((List.range (formatBytes k)).map B) s := by
  cases k with
  | measurement => exact congrArg (feedAll · s) (recordOf_toBytes B)
  | health => exact congrArg (feedAll · s) (shortOf_toBytes B)
  | manufacturerInfo => exact congrArg (feedAll · s) (shortOf_toBytes B)

/-- Bytes that are one whole frame are fed by the frame instruction they decode to. -/
theorem exec_of_decodeFrame {c : Config} {bs : List Byte} {i : Instr} (h : decodeFrame c bs = .ok (i, [])) (s : State) :
    exec i s = feedAll bs s := by
  obtain ⟨-, k, -, -, hle, heq⟩ := decodeFrame_eq_ok.1 h
  obtain ⟨rfl, hdrop⟩ := Prod.mk.inj heq
  rw [exec_frameOf, map_byteAt_range_take hle, List.take_of_length_le (List.drop_eq_nil_iff.1 hdrop)]

/-- Settles O42: a step issues the pending operation; a byte decodes to the micro-operation it selects, whole-frame bytes to the
frame instruction that feeds them. -/
theorem stepRunsTheDecodedInstruction : Obligations.StepRunsTheDecodedInstruction := by
  refine ⟨fun s m rest b i e hw hinp hdec h => ?byte, fun s rest bs i hw hinp hdec => ?frame⟩
  case byte =>
    obtain ⟨u, hu, rfl⟩ := decodeByte_eq_ok.1 hdec
    rw [step_of_cons hw hinp]
    exact feedIsMicroOperationThenStep b _ m u e hu h
  case frame =>
    rw [step_of_cons hw hinp, exec_of_decodeFrame hdec]
    rfl

end Sys2Proof.Machine
end

section
/-! Proofs: a whole frame fed from AwaitHeader, byte by byte, up to the STEP that completes it (`40_frame_sync.md` R126). -/

namespace Sys2Proof.Machine

/-! ## The state while a frame is fed -/

/-- The buffer with the bytes written at offsets 0, 1, …; `read_filled` says what it holds. -/
def Memory.filled (m : Memory) (bs : List Byte) : Memory := bs.zipIdx.foldl (fun m p => m.write p.2 p.1) m

theorem filled_concat (m : Memory) (bs : List Byte) (b : Byte) :
    m.filled (bs ++ [b]) = (m.filled bs).write bs.length b := by
  simp [Memory.filled, List.zipIdx_append]

theorem read_filled (m : Memory) (bs : List Byte) (a : Nat) : (m.filled bs).read a = bs[a]?.or (m.read a) := by
  induction bs using List.reverseRecOn with
  | nil => rfl
  | append_singleton bs b ih =>
    rw [filled_concat, read_write]
    split
    · simp [*]
    · rw [ih, List.getElem?_append]
      split
      · rfl
      · rw [List.getElem?_eq_none (by omega), List.getElem?_eq_none (by simp; omega)]

/-- The state in `st` after the bytes `bs` of a frame and `n` quiet reports; `feedAll_frame` ties it to FEED. -/
def State.framed (s : State) (st : DecoderState) (bs : List Byte) (n : Nat) : State :=
  { s with
    st := st
    buf := s.buf.filled bs
    cur := bs.length
    out := List.replicate n (.report quietReport) ++ s.out }

section

variable (s : State) (st : DecoderState) (bs : List Byte) (n : Nat)

@[simp] theorem framed_cfg : (s.framed st bs n).cfg = s.cfg := rfl
@[simp] theorem framed_st : (s.framed st bs n).st = st := rfl
@[simp] theorem framed_buf : (s.framed st bs n).buf = s.buf.filled bs := rfl
@[simp] theorem framed_cur : (s.framed st bs n).cur = bs.length := rfl
@[simp] theorem framed_latest : (s.framed st bs n).latest = s.latest := rfl
@[simp] theorem framed_handler : (s.framed st bs n).handler = s.handler := rfl
@[simp] theorem framed_dropcnt : (s.framed st bs n).dropcnt = s.dropcnt := rfl
@[simp] theorem framed_inp : (s.framed st bs n).inp = s.inp := rfl
@[simp] theorem framed_out :
    (s.framed st bs n).out = List.replicate n (.report quietReport) ++ s.out := rfl

/-- Storing the next byte of the frame. -/
theorem framed_stored (st' : DecoderState) (b : Byte) :
    (s.framed st bs n).stored st' bs.length b = s.framed st' (bs ++ [b]) n := by
  simp [State.framed, State.stored, filled_concat]

theorem framed_emit_quiet : (s.framed st bs n).emit (.report quietReport) = s.framed st bs (n + 1) := rfl

variable {bs}

/-- The block can read the bytes of the frame, if they fit in the buffer. -/
theorem framed_holds (h : bs.length ≤ s.cfg.cap) : (s.framed st bs n).holds bs := fun i hi =>
  readCell_eq_next.2 ⟨Nat.lt_of_lt_of_le hi h, hi, by simp [read_filled, hi]⟩

theorem framed_read_of_le {a : Nat} (h : bs.length ≤ a) : (s.framed st bs n).buf.read a = s.buf.read a := by
  simp [read_filled, List.getElem?_eq_none h]

end

/-! ## The FEEDs of a frame -/

@[simp] theorem feedAll_singleton (b : Byte) (s : State) : feedAll [b] s = execFeed b s := by
  rw [feedAll_cons]
  cases execFeed b s <;> rfl

/-- FEED of a frame's next byte, where its micro-operation stores at the cursor and has no event. -/
theorem execFeed_framed {s : State} {st : DecoderState} {bs : List Byte} {n : Nat} {b : Byte} {u : MicroOp}
    (hu : select s.cfg st bs.length b = some u) (ha : storeOffset u bs.length = some bs.length)
    (hc : bs.length < s.cfg.cap) (he : microEvent u = .none) :
    execFeed b (s.framed st bs n) = .next (s.framed (microState u st) (bs ++ [b]) (n + 1)) := by
  rw [execFeed_of hu (microOp_of_stores (s := s.framed st bs n) ha hc), framed_stored, he, execStep_none,
    framed_emit_quiet, framed_st]

/-- A marker is classified as its kind: no other marker is equal to it (`00_scope.md` R8). -/
theorem classify_markerOf {c : Config} (hw : c.wf) (k : Kind) : classify c (c.markerOf k) = kindAsFrameKind k := by
  obtain ⟨⟨hmh, hhi, him⟩, -⟩ := hw
  cases k with
  | measurement => exact classify_eq_measurement.2 rfl
  | health => exact classify_eq_health.2 ⟨hmh.symm, rfl⟩
  | manufacturerInfo => exact classify_eq_manufacturerInfo.2 ⟨him, hhi.symm, rfl⟩

theorem select_markerOf {c : Config} (hw : c.wf) (k : Kind) (cur : Nat) :
    select c .awaitKind cur (c.markerOf k) = some (startOf k) := by
  rw [select, classify_markerOf hw k]
  cases k <;> rfl

/-- From AwaitHeader, HEADER and the marker of a kind start a frame of that kind. -/
theorem feedAll_start {s : State} (hw : s.cfg.wf) (hst : s.st = .awaitHeader) (k : Kind) :
    feedAll [s.cfg.header, s.cfg.markerOf k] s =
      .next (s.framed (.accumulating k) [s.cfg.header, s.cfg.markerOf k] 2) := by
  have hlen := lenOf_bounds hw k
  have hsync : execFeed s.cfg.header s = .next (s.framed .awaitKind [s.cfg.header] 1) := by
    rw [execFeed_of (u := .sync) (select_of_selectedWhen ⟨hst, rfl⟩) (microOp_of_stores rfl (by omega))]
    rfl
  have hkind := execFeed_framed (s := s) (bs := [s.cfg.header]) (n := 1) (select_markerOf hw k 1)
    (storeOffset_startOf k _) (show 1 < s.cfg.cap by omega) (microEvent_startOf k)
  rw [microState_startOf] at hkind
  rw [feedAll_cons, hsync, andThen_next, feedAll_singleton]
  exact hkind

/-- Bytes fed before a frame is complete are its data, whatever they are (`40_frame_sync.md` R118). -/
theorem feedAll_body {s : State} {k : Kind} (hw : s.cfg.wf) {as bs : List Byte} {n : Nat}
    (hlen : as.length + bs.length < s.cfg.lenOf k) :
    feedAll bs (s.framed (.accumulating k) as n) = .next (s.framed (.accumulating k) (as ++ bs) (n + bs.length)) := by
  have hbounds := lenOf_bounds hw k
  induction bs generalizing as n with
  | nil => simp
  | cons b bs ih =>
    rw [List.length_cons] at hlen
    have hcap : as.length < s.cfg.cap := by omega
    have hacc := execFeed_framed (s := s) (n := n) (b := b) (u := .acc)
      (select_of_selectedWhen ⟨k, rfl, hcap, show as.length + 1 < s.cfg.lenOf k by omega⟩) rfl hcap rfl
    rw [feedAll_cons, hacc, andThen_next]
    refine (ih (by simp; omega)).trans ?_
    simp [Nat.add_assoc, Nat.add_comm 1]

/-- The last byte of a frame: what remains of its FEED is STEP on the whole frame. -/
theorem execFeed_last {s : State} {k : Kind} (hw : s.cfg.wf) {bs : List Byte} {b : Byte} {n : Nat}
    (hlen : bs.length + 1 = s.cfg.lenOf k) :
    execFeed b (s.framed (.accumulating k) bs n) =
      execStep (.frameReady k) (s.framed .awaitHeader (bs ++ [b]) n) := by
  have hcap := lenOf_bounds hw k
  have hc : bs.length < s.cfg.cap := by omega
  rw [execFeed_of (select_finOf hc hlen) (microOp_of_stores (storeOffset_finOf k _) hc), microState_finOf,
    microEvent_finOf]
  exact congrArg _ (framed_stored s _ bs n _ b)

/-- The bytes are a frame of kind `k`, but perhaps for its checksum: its length, HEADER, its marker. -/
structure IsFrame (c : Config) (k : Kind) (bs : List Byte) : Prop where
  length : bs.length = c.lenOf k
  header : byteAt bs 0 = c.header
  marker : byteAt bs 1 = c.markerOf k

/-- A frame is HEADER, its marker, its body and its last byte. -/
theorem IsFrame.eq_append {c : Config} {k : Kind} {bs : List Byte} (h : IsFrame c k bs) (hw : c.wf) :
    ∃ body last, bs = [c.header, c.markerOf k] ++ (body ++ [last]) := by
  obtain ⟨hl, hhdr, hmark⟩ := h
  have hlen := lenOf_bounds hw k
  match bs with
  | [] | [_] | [_, _] =>
    simp at hl
    omega
  | x :: y :: z :: zs =>
    obtain ⟨body, last, hbody⟩ := List.eq_nil_or_concat' (z :: zs) |>.resolve_left (by simp)
    exact ⟨body, last, by rw [← hbody, ← hhdr, ← hmark]; rfl⟩

/-- Fed from AwaitHeader, a whole frame gives one quiet report for each byte but the last, and then STEP runs on the buffer that
holds it. -/
theorem feedAll_frame {s : State} {k : Kind} {bs : List Byte} {n : Nat} (hw : s.cfg.wf) (hst : s.st = .awaitHeader)
    (h : IsFrame s.cfg k bs) (hn : bs.length = n + 1) :
    feedAll bs s = execStep (.frameReady k) (s.framed .awaitHeader bs n) := by
  obtain ⟨body, last, hbs⟩ := h.eq_append hw
  have hl : ([s.cfg.header, s.cfg.markerOf k] ++ body).length + 1 = s.cfg.lenOf k := by
    rw [← h.length, hbs]
    simp
  have hbody : 2 + body.length = n := by
    simp [hbs] at hn
    omega
  rw [hbs, feedAll_append, feedAll_start hw hst k, andThen_next, feedAll_append,
    feedAll_body hw (by simp at hl ⊢; omega), andThen_next, feedAll_singleton, execFeed_last hw hl, List.append_assoc,
    ← hbs, hbody]

end Sys2Proof.Machine
end

section
/-! Proofs: what a whole frame fed from AwaitHeader does, by its checksum and its kind (`40_frame_sync.md` R126, R129;
`43_publish.md` R180 to R186). -/

namespace Sys2Proof.Machine

/-! ## The checksum of a frame -/

/-- VALIDATE accepts `n + 1` bytes when the last is the checksum of the first `n`. -/
theorem validBytes_iff {c : Config} {bs : List Byte} {n : Nat} (hl : bs.length = n + 1) :
    ValidBytes c bs ↔ byteAt bs n = crcOf c (bs.take n) := by
  rw [ValidBytes, List.getLast?_eq_getElem?, List.dropLast_eq_take, hl, Nat.add_sub_cancel,
    List.getElem?_eq_getElem (by omega), Option.some.injEq, byteAt_of_lt (by omega)]

theorem validBytes_recordBytes {c : Config} {r : MeasurementRecord} :
    ValidBytes c r.toBytes ↔ r.crc = crcOf c (r.toBytes.take 46) := by
  rw [validBytes_iff (recordBytes_length r), show byteAt r.toBytes 46 = r.crc from byteAt_recordBytes_tail r 4]

theorem validBytes_shortBytes {c : Config} {f : ShortFrame} :
    ValidBytes c f.toBytes ↔ f.crc = crcOf c (f.toBytes.take 11) := by
  rw [validBytes_iff (shortBytes_length f), byteAt_shortBytes_crc]

/-! ## After the last byte -/

/-- `t` is a state in AwaitHeader with the frame `bs` readable in the buffer, and otherwise as `s` where no frame writes. -/
structure FrameStands (s t : State) (bs : List Byte) : Prop where
  st : t.st = .awaitHeader
  cur : t.cur = bs.length
  holds : t.holds bs
  others : ∀ a, bs.length ≤ a → t.buf.read a = s.buf.read a
  handler : t.handler = s.handler
  cfg : t.cfg = s.cfg
  inp : t.inp = s.inp

theorem IsFrame.length_le_cap {c : Config} {k : Kind} {bs : List Byte} (h : IsFrame c k bs) (hw : c.wf) :
    bs.length ≤ c.cap :=
  h.length.trans_le (lenOf_bounds hw k).2

section

variable {s : State} {k : Kind} {bs : List Byte} {n : Nat} (hw : s.cfg.wf) (hst : s.st = .awaitHeader)
  (hn : bs.length = n + 1)

include hw hst hn

/-- STEP writes neither `st` nor the buffer, so the frame stands when its FEEDs are over. -/
theorem frameStands_of_feedAll {t : State} (h : IsFrame s.cfg k bs) (ht : feedAll bs s = .next t) :
    FrameStands s t bs := by
  rw [feedAll_frame hw hst h hn] at ht
  obtain ⟨tcfg, tst, tbuf, tcur, thandler, tinp⟩ := execStep_frame ht
  exact
    { st := tst
      cur := tcur
      holds := fun i hi => (readCell_congr tcfg tbuf tcur).trans (framed_holds s _ n (h.length_le_cap hw) i hi)
      others := fun a ha => (congrArg (·.read a) tbuf).trans (framed_read_of_le s .awaitHeader n ha)
      handler := thandler
      cfg := tcfg
      inp := tinp }

/-- A frame whose checksum is wrong is counted (`60_exceptions.md` R204). -/
theorem feedAll_invalid (h : IsFrame s.cfg k bs) (hv : ¬ ValidBytes s.cfg bs) :
    feedAll bs s =
      .next ((raise (.checksumMismatch k) (s.framed .awaitHeader bs n)).emit (.report (mismatchReport k))) := by
  rw [feedAll_frame hw hst h hn]
  exact execStep_invalid h.length (List.ne_nil_of_length_eq_add_one hn) (framed_holds s _ n (h.length_le_cap hw)) hv

/-- A short frame whose checksum is right is only reported (`43_publish.md` R185). -/
theorem feedAll_pass {k : ShortKind} (h : IsFrame s.cfg k.kind bs) (hv : ValidBytes s.cfg bs) :
    feedAll bs s = .next ((s.framed .awaitHeader bs n).emit (.report (passReport k))) := by
  rw [feedAll_frame hw hst h hn]
  exact execStep_pass h.length (List.ne_nil_of_length_eq_add_one hn) (framed_holds s _ n (h.length_le_cap hw)) hv

end

/-! ## Measurement frames -/

/-- NOTIFY adds one invocation if a handler is registered, and says whether. -/
theorem notify_eq (r : MeasurementRecord) (s : State) :
    notify r s =
      ({ s with out := (s.handler.map fun h => Output.invoked h r).toList ++ s.out }, s.handler.isSome) := by
  obtain ⟨_, _, _, _, _, handler, _, _, _⟩ := s
  cases handler <;> rfl

/-- What the bytes of a publishable record add to the outputs (`43_publish.md` R186), newest first. -/
def publishOutputs (hd : Option HandlerId) (r : MeasurementRecord) : List Output :=
  .report (publishReport r hd.isSome) ::
    ((hd.map fun h => Output.invoked h r).toList ++ List.replicate 46 (.report quietReport))

/-- The state after the bytes of a publishable record; `feedAll_publish` ties it to FEED. -/
def State.published (s : State) (r : MeasurementRecord) : State :=
  { s.framed .awaitHeader r.toBytes 46 with latest := some r, out := publishOutputs s.handler r ++ s.out }

theorem isFrame_recordBytes {c : Config} {r : MeasurementRecord} (hlen : c.lenMeas = 47) (hr : Publishable c r) :
    IsFrame c .measurement r.toBytes := by
  obtain ⟨hhdr, hmark, -⟩ := hr
  exact ⟨(recordBytes_length r).trans hlen.symm, hhdr, hmark⟩

/-- Fed from AwaitHeader, the bytes of a publishable record publish it. -/
theorem feedAll_publish {s : State} {r : MeasurementRecord} (hw : s.cfg.wf) (hlen : s.cfg.lenMeas = 47)
    (hst : s.st = .awaitHeader) (hr : Publishable s.cfg r) : feedAll r.toBytes s = .next (s.published r) := by
  have hframe := isFrame_recordBytes hlen hr
  obtain ⟨-, -, hcrc⟩ := hr
  have hstep := execStep_publish (s := s.framed .awaitHeader r.toBytes 46) hframe.length (recordBytes_length r).ge
    (framed_holds s _ 46 (hframe.length_le_cap hw)) (validBytes_recordBytes.2 hcrc)
  rw [recordOf_byteAt_recordBytes, notify_eq] at hstep
  rw [feedAll_frame hw hst hframe (recordBytes_length r), hstep]
  simp [State.published, publishOutputs, State.emit, publish]

/-- Settles O51: the bytes are a frame with the right checksum, so STEP on it publishes the record they serialize. -/
theorem measurementFramePublishesItsRecord : Obligations.MeasurementFramePublishesItsRecord := by
  intro s r hw hlen hst hr
  have h47 := recordBytes_length r
  have hfeed := feedAll_publish hw hlen hst hr
  have hstands := frameStands_of_feedAll hw hst h47 (isFrame_recordBytes hlen hr) hfeed
  exact ⟨s.published r, hfeed, hstands.st, hstands.cur.trans h47, hstands.holds, h47 ▸ hstands.others, rfl, rfl, rfl,
    rfl, rfl, by simp [State.published, publishOutputs, publishReport, quietReport]⟩

/-- The records published by the outputs of a publishable record are that record, whichever way they are read off. -/
theorem filterMap_publishOutputs {f : Output → Option MeasurementRecord} (hreport : ∀ p, f (.report p) = p.published)
    (hinvoked : ∀ h r, f (.invoked h r) = none) (hd : Option HandlerId) (r : MeasurementRecord) :
    (publishOutputs hd r).filterMap f = [r] := by
  cases hd <;> simp [publishOutputs, hreport, hinvoked, publishReport, quietReport]

/-- Settles O55: after the first frame the decoder is again in AwaitHeader under the same configuration, so the second is
published as the first was. -/
theorem backToBackFramesArePublishedInOrder : Obligations.BackToBackFramesArePublishedInOrder := by
  intro s r q hw hlen hst hr hq
  refine ⟨(s.published r).published q, ?feeds, rfl, rfl, rfl, ?records⟩
  case feeds =>
    show feedAll (r.toBytes ++ q.toBytes) s = _
    rw [feedAll_append, feedAll_publish hw hlen hst hr, andThen_next]
    exact feedAll_publish hw hlen rfl hq
  case records =>
    show List.filterMap _ (publishOutputs s.handler q ++ (publishOutputs s.handler r ++ s.out)) = _
    rw [List.filterMap_append, List.filterMap_append, filterMap_publishOutputs (fun _ => rfl) (fun _ _ => rfl),
      filterMap_publishOutputs (fun _ => rfl) (fun _ _ => rfl)]
    rfl

/-! ## Short frames -/

/-- Settles O53: the bytes are a frame of their kind, and STEP on it passes or counts it by its checksum. -/
theorem shortFramesPassOrCount : Obligations.ShortFramesPassOrCount := by
  intro s f k i hw hlen hst hhdr hmark hhealth hmanuf
  have hexec : exec i s = feedAll f.toBytes s := by
    cases k with
    | health => rw [hhealth rfl]; rfl
    | manufacturerInfo => rw [hmanuf rfl]; rfl
  have h12 := shortBytes_length f
  have hframe : IsFrame s.cfg k.kind f.toBytes := ⟨h12.trans hlen.symm, hhdr, hmark⟩
  rw [hexec]
  by_cases hv : f.crc = crcOf s.cfg (f.toBytes.take 11)
  · have hfeed := feedAll_pass hw hst h12 hframe (validBytes_shortBytes.2 hv)
    have hstands := frameStands_of_feedAll hw hst h12 hframe hfeed
    exact ⟨_, hfeed, hstands.st, hstands.cur.trans h12, hstands.holds, h12 ▸ hstands.others, rfl, rfl, rfl, rfl,
      fun _ => ⟨rfl, rfl⟩, fun hn => absurd hv hn⟩
  · have hfeed := feedAll_invalid hw hst h12 hframe (mt validBytes_shortBytes.1 hv)
    have hstands := frameStands_of_feedAll hw hst h12 hframe hfeed
    exact ⟨_, hfeed, hstands.st, hstands.cur.trans h12, hstands.holds, h12 ▸ hstands.others, rfl, rfl, rfl, rfl,
      fun hy => absurd hy hv, fun _ => ⟨rfl, rfl⟩⟩

end Sys2Proof.Machine
end

section
/-! Proofs: bytes in AwaitHeader that are not HEADER leave the state alone (`40_frame_sync.md` R127). -/

namespace Sys2Proof.Machine

/-- FEED of a byte other than HEADER in AwaitHeader only reports. -/
theorem execFeed_skip {s : State} {b : Byte} (hst : s.st = .awaitHeader) (hb : b ≠ s.cfg.header) :
    execFeed b s = .next (s.emit (.report quietReport)) :=
  execFeed_of (u := .skip) (select_of_selectedWhen ⟨hst, hb⟩) rfl

/-- Settles O54: by induction on the bytes; each is skipped, and the state it leaves is again in AwaitHeader. -/
theorem garbageWithoutHeaderIsSkipped : Obligations.GarbageWithoutHeaderIsSkipped := by
  intro s bs hst hbs
  show feedAll bs s = _
  induction bs generalizing s with
  | nil => rfl
  | cons b bs ih =>
    obtain ⟨hb, hbs⟩ := List.forall_mem_cons.1 hbs
    rw [feedAll_cons, execFeed_skip hst hb, andThen_next, ih (s.emit _) hst hbs]
    simp [State.emit, quietReport, List.replicate_succ']

end Sys2Proof.Machine
end

section
/-! Proofs: what CRC8.UPD, CRC8 and VALIDATE answer, and that no function writes state (`41_checksum.md` R140 to R142, R145). -/

namespace Sys2Proof.Machine

/-! ## The checksum of given bytes -/

/-- `41_checksum.md` R141, R142: the checksum is a fold of table look-ups. -/
theorem crcOf_eq_foldl (cfg : Config) (bs : List Byte) :
    crcOf cfg bs = bs.foldl (fun c d => cfg.crcTable[(c ^^^ d).toNat]) cfg.crcInit :=
  congrArg (bs.foldl · cfg.crcInit) (funext₂ (crcUpd_eq cfg))

/-- VALIDATE accepts bytes that are followed by their checksum (`41_checksum.md` R140). -/
theorem validBytes_concat {c : Config} {bs : List Byte} {b : Byte} : ValidBytes c (bs ++ [b]) ↔ crcOf c bs = b := by
  rw [ValidBytes, List.getLast?_concat, List.dropLast_concat, Option.some.injEq, eq_comm]

/-! ## Answering without writing -/

/-- An operation that answers by `answerPure` only adds its output. -/
theorem exists_emit_of_answerPure {α : Type} {o : Res α} {f : α → Output} {s t : State}
    (h : answerPure s o f = .next t) : ∃ x, t = s.emit x := by
  obtain ⟨v, -, ht⟩ := answerPure_eq_next.1 h
  exact ⟨f v, ht⟩

/-! ## The obligations -/

/-- Settles O29: the mask `0xFF` of R141 keeps the whole byte. -/
theorem checksumUpdateIsATableLookup : Obligations.ChecksumUpdateIsATableLookup := fun s c d =>
  congrArg (fun v => Host.Outcome.next (s.emit (.byte v))) (crcUpd_eq s.cfg c d)

/-- Settles O30: the range read gives the bytes in ascending order, and the checksum folds the look-up over them. -/
theorem checksumFoldsTheRange : Obligations.ChecksumFoldsTheRange := by
  intro s B lo hi f hread
  have hbytes := readRange_of (n := (hi + 1 - lo).toNat) fun x hlo hlt => hread x hlo (by omega)
  show execCrc8 B lo hi s = _
  rw [execCrc8, crcRange_of hbytes, crcOf_eq_foldl]
  rfl

/-- Settles O31: the first `n` bytes are the `n - 1` checksummed ones and the one compared with their checksum. -/
theorem validateComparesTheLastByte : Obligations.ValidateComparesTheLastByte := by
  refine ⟨fun s B n f hn hread => ?_, fun _ _ => rfl⟩
  obtain ⟨m, rfl⟩ := Nat.exists_eq_add_of_le' hn
  have hbytes : readRange s B 0 (m + 1) = .next ((List.range m).map f ++ [f m]) := by
    rw [readRange_of fun x _ hx => hread x (by omega), ← List.range_eq_range', List.range_succ, List.map_append]
    rfl
  show execValidate B (m + 1) s = _
  rw [execValidate, validateArg_of m.succ_ne_zero hbytes, decide_eq_decide.2 validBytes_concat]
  rfl

/-- Settles O37: the functions that may fault answer by `answerPure`, and the other three always answer the state with their
output added. -/
theorem functionsWriteNoState : Obligations.FunctionsWriteNoState := by
  rintro i s t (⟨B, n, rfl⟩ | ⟨c, d, rfl⟩ | ⟨B, lo, hi, rfl⟩ | ⟨B, a, rfl⟩ | ⟨B, a, rfl⟩ | ⟨B, rfl⟩ | ⟨k, rfl⟩ | rfl) h
  · exact exists_emit_of_answerPure h
  · exact ⟨_, (Host.Outcome.next.inj h).symm⟩
  · exact exists_emit_of_answerPure h
  · exact exists_emit_of_answerPure h
  · exact exists_emit_of_answerPure h
  · exact exists_emit_of_answerPure h
  · exact ⟨_, (Host.Outcome.next.inj h).symm⟩
  · exact ⟨_, (Host.Outcome.next.inj h).symm⟩

end Sys2Proof.Machine
end

section
/-! Proofs: with a table that is a permutation the checksum detects one changed byte (`41_checksum.md` R146). -/

namespace Sys2Proof.Machine

/-! ## The checksum of a permutation table -/

section

variable {c : Config} (hT : TablePermutes c)

include hT

/-- Different indices look up different entries. -/
theorem xor_eq_of_crcUpd_eq {x y d e : Byte} (h : crcUpd c x d = crcUpd c y e) : x ^^^ d = y ^^^ e := by
  rw [crcUpd_eq, crcUpd_eq] at h
  exact BitVec.eq_of_toNat_eq (Fin.mk.inj (hT ⟨_, (x ^^^ d).isLt⟩ ⟨_, (y ^^^ e).isLt⟩ h))

/-- The running value before a byte is determined by the one after it. -/
theorem crcUpd_injective_left (d : Byte) : Function.Injective fun x => crcUpd c x d := fun _ _ h =>
  (BitVec.xor_left_inj d).1 (xor_eq_of_crcUpd_eq hT h)

/-- The byte is determined by the running value before and after it. -/
theorem crcUpd_injective_right (x : Byte) : Function.Injective (crcUpd c x) := fun _ _ h =>
  (BitVec.xor_right_inj x).1 (xor_eq_of_crcUpd_eq hT h)

/-- The running value before any bytes is determined by the one after them: a difference never goes away. -/
theorem foldl_crcUpd_injective (bs : List Byte) : Function.Injective (bs.foldl (crcUpd c)) := by
  induction bs with
  | nil => exact Function.injective_id
  | cons b bs ih => exact ih.comp (crcUpd_injective_left hT b)

/-- Bytes before and after it fixed, the checksum determines a byte. -/
theorem crcOf_append_cons_injective (as bs : List Byte) : Function.Injective fun b => crcOf c (as ++ b :: bs) := by
  intro b d h
  simp only [crcOf, List.foldl_append, List.foldl_cons] at h
  exact crcUpd_injective_right hT _ (foldl_crcUpd_injective hT bs h)

/-- The other bytes fixed, the checksum determines the byte at an offset. -/
theorem crcOf_set_injective {bs : List Byte} {p : Nat} (hp : p < bs.length) :
    Function.Injective fun b => crcOf c (bs.set p b) := by
  simp only [List.set_eq_take_append_cons_drop, if_pos hp]
  exact crcOf_append_cons_injective hT _ _

/-- Byte sequences that differ at one offset only have different checksums. -/
theorem crcOf_ne_of_differ_at {bs cs : List Byte} {p : Nat} (hl : bs.length = cs.length) (hne : bs[p]? ≠ cs[p]?)
    (heq : ∀ x, x ≠ p → bs[x]? = cs[x]?) (hp : p < bs.length) : crcOf c bs ≠ crcOf c cs := by
  have hpc : p < cs.length := hl ▸ hp
  have hbyte : bs[p] ≠ cs[p] := by simpa [hp, hpc] using hne
  have hcs : bs.set p cs[p] = cs := List.ext_getElem? fun x => by
    by_cases hx : x = p
    · simp [hx, hp, hpc]
    · rw [List.getElem?_set_ne (Ne.symm hx), heq x hx]
  simpa [hcs] using (crcOf_set_injective hT hp).ne hbyte

end

/-- Arrays of one length hold the same byte at an offset, or both end before it, exactly when `byteAt` gives the same there. -/
theorem getElem?_eq_iff_byteAt_eq {bs cs : List Byte} (hl : bs.length = cs.length) (x : Nat) :
    bs[x]? = cs[x]? ↔ byteAt bs x = byteAt cs x := by
  by_cases hx : x < bs.length
  · have hxc : x < cs.length := hl ▸ hx
    rw [byteAt_of_lt hx, byteAt_of_lt hxc, List.getElem?_eq_getElem hx, List.getElem?_eq_getElem hxc, Option.some.injEq]
  · simp [byteAt, hx, ← hl]

/-! ## The obligations -/

/-- Settles O32: the last bytes are the same, so the checksums of the others would be, but those bytes differ at one offset. -/
theorem oneChangedByteIsDetected : Obligations.OneChangedByteIsDetected := by
  rintro c bs cs p hT hl hp hne heq ⟨hvb, hvc⟩
  have hlast : bs.getLast? = cs.getLast? := by
    rw [List.getLast?_eq_getElem?, List.getLast?_eq_getElem?, ← hl]
    exact heq _ (by omega)
  have hcrc : crcOf c bs.dropLast = crcOf c cs.dropLast := Option.some.inj (hvb.symm.trans (hlast.trans hvc))
  refine crcOf_ne_of_differ_at hT (p := p) (by simp [hl]) ?_ (fun x hx => ?_) (by simp; omega) hcrc
  · rwa [List.getElem?_dropLast, List.getElem?_dropLast, ← hl, if_pos (by omega), if_pos (by omega)]
  · rw [List.getElem?_dropLast, List.getElem?_dropLast, ← hl, heq x hx]

/-- Settles O57: header and marker are those of the valid frame, so the changed one is a frame too, and its checksum is wrong. -/
theorem aFrameWithOneChangedBodyByteIsDropped : Obligations.AFrameWithOneChangedBodyByteIsDropped := by
  intro s r q p hw hlen hT hst hr h2 h45 hne heq
  have h47 := recordBytes_length q
  have hl : q.toBytes.length = r.toBytes.length := h47.trans (recordBytes_length r).symm
  obtain ⟨-, hhdr, hmark⟩ := isFrame_recordBytes hlen hr
  obtain ⟨-, -, hcrc⟩ := hr
  have hframe : IsFrame s.cfg .measurement q.toBytes :=
    ⟨h47.trans hlen.symm, (heq 0 (by omega)).trans hhdr, (heq 1 (by omega)).trans hmark⟩
  have hinvalid : ¬ ValidBytes s.cfg q.toBytes := fun hv =>
    oneChangedByteIsDetected s.cfg q.toBytes r.toBytes p hT hl (by omega) (mt (getElem?_eq_iff_byteAt_eq hl p).1 hne)
      (fun x hx => (getElem?_eq_iff_byteAt_eq hl x).2 (heq x hx)) ⟨hv, validBytes_recordBytes.2 hcrc⟩
  exact ⟨_, feedAll_invalid hw hst h47 hframe hinvalid, rfl, rfl, rfl⟩

end Sys2Proof.Machine
end

section
/-! Proofs: what GET8, GET16LE and DECODE answer, and that records and 47-byte arrays correspond (`42_record_decode.md` R160 to
R163). -/

namespace Sys2Proof.Machine

/-! ## What the extractions answer when their bytes are readable -/

/-- A function whose value is known answers the state with that value as its output. -/
theorem answerPure_of {α : Type} {s : State} {o : Res α} {v : α} (f : α → Output) (h : o = .next v) :
    answerPure s o f = .next (s.emit (f v)) :=
  answerPure_eq_next.2 ⟨v, h, rfl⟩

/-- `42_record_decode.md` R161: GET16LE assembles the bytes at `a` and `a + 1`. -/
theorem readHalf_of {s : State} {B : ByteArg} {a : Nat} {lo hi : Byte} (hlo : readArg s B a = .next lo)
    (hhi : readArg s B (a + 1) = .next hi) : readHalf s B a = .next (le16 lo hi) := by
  rw [readHalf, hlo, andThen_next, hhi, andThen_next]

/-- `42_record_decode.md` R162: DECODE extracts the record of the bytes at offsets 0 to 46. -/
theorem decodeArg_of_reads {s : State} {B : ByteArg} {f : Nat → Byte} (h : ∀ x, x < 47 → readArg s B x = .next (f x)) :
    decodeArg s B = .next (recordOf f) := by
  have hbytes : readRange s B 0 47 = .next ((List.range' 0 47).map f) := readRange_of fun x _ hx => h x (by omega)
  have hrecord : recordOf (byteAt ((List.range' 0 47).map f)) = recordOf f :=
    recordOf_congr fun x hx => by rw [byteAt_of_lt (by simpa using hx)]; simp
  rw [decodeArg_of (Nat.le_refl 47) hbytes, hrecord]

/-- Point `i` of the extracted record is the one at offsets `6 + 3i` to `8 + 3i` (`20_memory.md` R57). -/
theorem recordOf_points_getElem (f : Nat → Byte) {i : Nat} (hi : i < 12) : (recordOf f).points[i] = pointOf f i :=
  Vector.getElem_ofFn hi

/-! ## The obligations -/

/-- Settles O33: the value is the byte read, and nothing is written. -/
theorem get8AnswersTheByte : Obligations.Get8AnswersTheByte := fun _ _ _ _ hread => answerPure_of .byte hread

/-- Settles O34: the two bytes read are assembled by `le16`, whose value is `lo + 256 * hi`. -/
theorem get16leIsLittleEndian : Obligations.Get16leIsLittleEndian := fun _ _ _ lo hi hlo hhi =>
  ⟨le16 lo hi, answerPure_of .half (readHalf_of hlo hhi), le16_toNat lo hi⟩

/-- Settles O35: the answer is `recordOf f`, which takes each byte field from its offset and each 16-bit field by `le16`. -/
theorem decodeExtractsTheFields : Obligations.DecodeExtractsTheFields := by
  intro s B f hread
  refine ⟨recordOf f, answerPure_of .record (decodeArg_of_reads hread), rfl, rfl, le16_toNat _ _, le16_toNat _ _,
    fun i hi => ?point, le16_toNat _ _, le16_toNat _ _, rfl⟩
  case point =>
    rw [recordOf_points_getElem f hi]
    exact ⟨le16_toNat _ _, rfl⟩

/-- Settles O36: extracting the fields of a record's bytes and serializing the record of 47 bytes undo each other. -/
theorem recordsAndBytesCorrespond : Obligations.RecordsAndBytesCorrespond :=
  ⟨recordOf_byteAt_recordBytes, fun _ hl => recordOf_byteAt_toBytes hl⟩

end Sys2Proof.Machine
end

section
/-! Proofs: what STEP, the blocks of the output stage, LATEST and REGISTER do (`43_publish.md` R180 to R187). -/

namespace Sys2Proof.Machine

/-! ## What STEP can do, by its event -/

/-- A short frame whose checksum is right is passed (`43_publish.md` R185). -/
theorem validFrame_short (k : ShortKind) (s : State) : validFrame k.kind s = .next (s, passReport k) := by
  cases k <;> rfl

/-- What STEP that answers on a short frame has done: it has passed the frame or counted it. -/
theorem execStep_short_cases {k : ShortKind} {s t : State} (h : execStep (.frameReady k.kind) s = .next t) :
    t = s.emit (.report (passReport k)) ∨
      t = (raise (.checksumMismatch k.kind) s).emit (.report (mismatchReport k.kind)) := by
  obtain ⟨m, v, hm, rfl⟩ := answer_eq_next.1 h
  obtain ⟨ok, -, hok⟩ := andThen_eq_next.1 hm
  cases ok with
  | false =>
    cases hok
    exact .inr rfl
  | true =>
    obtain ⟨rfl, rfl⟩ := Prod.mk.inj (Host.Outcome.next.inj ((validFrame_short k s).symm.trans hok))
    exact .inl rfl

/-- Without an event the cache and the counter are as before (`43_publish.md` R187). -/
theorem execStep_none_frame {s t : State} (h : execStep .none s = .next t) :
    t.latest = s.latest ∧ t.dropcnt = s.dropcnt := by
  cases h
  exact ⟨rfl, rfl⟩

/-- A short frame never reaches the cache (`43_publish.md` R185). -/
theorem execStep_short_latest {k : ShortKind} {s t : State} (h : execStep (.frameReady k.kind) s = .next t) :
    t.latest = s.latest := by
  obtain rfl | rfl := execStep_short_cases h <;> rfl

/-- STEP publishes or counts, never both. -/
theorem execStep_latest_or_dropcnt {e : Event} {s t : State} (h : execStep e s = .next t) :
    t.latest = s.latest ∨ t.dropcnt = s.dropcnt := by
  obtain ⟨r, rfl, -⟩ | ⟨k, rfl⟩ | ⟨r, rfl⟩ := execStep_cases h
  · exact .inl rfl
  · exact .inl rfl
  · exact .inr (by simp)

/-! ## The obligations -/

/-- Settles O23: VALIDATE answers true on the bytes in the buffer, and PASS only reports. -/
theorem validShortFrameOnlyReports : Obligations.ValidShortFrameOnlyReports :=
  fun _ _ _ hl hn hholds hv => execStep_pass hl hn hholds hv

/-- Settles O24: the record is in the cache before NOTIFY looks at the handler, which PUBLISH does not change. -/
theorem validMeasurementFrameIsPublished : Obligations.ValidMeasurementFrameIsPublished := by
  intro s bs hl h47 hholds hv
  refine ⟨fun hnone => ?silent, fun h hsome => ?notified⟩
  case silent =>
    rw [exec_step, execStep_publish hl h47 hholds hv, notify_of_none (s := publish _ s) hnone]
    rfl
  case notified =>
    rw [exec_step, execStep_publish hl h47 hholds hv, notify_of_some (s := publish _ s) hsome]
    rfl

/-- Settles O28: STEP writes `latest`, `dropcnt` and `out` only, and which of them by its event. -/
theorem stepFrame : Obligations.StepFrame := by
  intro e s t h
  rw [exec_step] at h
  obtain ⟨hcfg, hst, hbuf, hcur, hhandler, hinp⟩ := execStep_frame h
  refine ⟨hst, fun a => by rw [hbuf], hcur, hhandler, hcfg, hinp, fun he => ?none, fun k he => ?short,
    execStep_latest_or_dropcnt h⟩
  case none => exact execStep_none_frame (he ▸ h)
  case short => exact execStep_short_latest (he ▸ h)

/-- Settles O3: by the definition of LATEST. -/
theorem latestAnswersTheCache : Obligations.LatestAnswersTheCache := fun _ => rfl

/-- Settles O4: by the definition of REGISTER, which writes one field and adds no output. -/
theorem registerReplacesTheHandler : Obligations.RegisterReplacesTheHandler := fun _ _ => rfl

/-- Settles O21: the report of a STEP without an event is the quiet one. -/
theorem stepWithoutEventIsQuiet : Obligations.StepWithoutEventIsQuiet := execStep_none

/-- Settles O25: by the definition of PUBLISH. -/
theorem publishOverwritesTheCache : Obligations.PublishOverwritesTheCache := fun _ _ => rfl

/-- Settles O26: NOTIFY by whether a handler is registered; its value is the output that comes last. -/
theorem notifyInvokesTheRegisteredHandler : Obligations.NotifyInvokesTheRegisteredHandler := by
  intro s r
  refine ⟨fun hnone => ?silent, fun h hsome => ?notified⟩
  case silent => exact congrArg (fun p => answer (.next p) .flag) (notify_of_none hnone)
  case notified => exact congrArg (fun p => answer (.next p) .flag) (notify_of_some hsome)

/-- Settles O27: the report of PASS names the kind it was given. -/
theorem passChangesNoState : Obligations.PassChangesNoState := fun _ => ⟨rfl, rfl⟩

end Sys2Proof.Machine
end

section
/-! Proofs: which FEEDs publish, and that a frame with a wrong checksum does not (`43_publish.md` R186, R189). -/

namespace Sys2Proof.Machine

/-! ## What the report of a STEP publishes -/

/-- Only a Measurement frame publishes (`43_publish.md` R180). -/
theorem execStep_published_of_ne_measurement {e : Event} {s t : State} {r : StepReport}
    (he : e ≠ .frameReady .measurement) (h : execStep e s = .next t) (hr : t.out.head? = some (.report r)) :
    r.published = none := by
  have hshort : ∀ k : ShortKind, execStep (.frameReady k.kind) s = .next t → r.published = none := by
    intro k hk
    obtain rfl | rfl := execStep_short_cases hk <;> cases hr <;> rfl
  cases e with
  | none =>
    cases h
    cases hr
    rfl
  | frameReady k =>
    cases k with
    | measurement => exact absurd rfl he
    | health => exact hshort .health h
    | manufacturerInfo => exact hshort .manufacturerInfo h

/-- A Measurement frame publishes its record if its checksum is right, else nothing. -/
theorem execStep_published_of_measurement {s t : State} {bs : List Byte} {r : StepReport}
    (hl : bs.length = s.cfg.lenMeas) (h47 : 47 ≤ bs.length) (hholds : s.holds bs)
    (h : execStep (.frameReady .measurement) s = .next t) (hr : t.out.head? = some (.report r)) :
    r.published = if ValidBytes s.cfg bs then some (recordOf (byteAt bs)) else none := by
  by_cases hv : ValidBytes s.cfg bs
  · rw [execStep_publish hl h47 hholds hv] at h
    cases h
    cases hr
    exact (if_pos hv).symm
  · rw [execStep_invalid (k := .measurement) hl (List.ne_nil_of_length_pos (by omega)) hholds hv] at h
    cases h
    cases hr
    exact (if_neg hv).symm

/-! ## The byte that completes a frame -/

/-- FIN.M is the only micro-operation that reports a Measurement frame (`40_frame_sync.md` R119). -/
theorem microEvent_eq_measurement {u : MicroOp} : microEvent u = .frameReady .measurement ↔ u = .finM := by
  cases u <;> decide

/-- A byte stored at the cursor follows those the buffer holds. -/
theorem stored_holds {s : State} {bs : List Byte} (st : DecoderState) (b : Byte) (hl : bs.length = s.cur)
    (hc : s.cur < s.cfg.cap) (h : s.holds bs) : (s.stored st s.cur b).holds (bs ++ [b]) := by
  intro i hi
  rw [List.length_append, List.length_singleton] at hi
  refine readCell_eq_next.2 ⟨by rw [stored_cfg]; omega, by rw [stored_cur]; omega, ?_⟩
  rw [stored_buf, read_write]
  by_cases hlast : i = s.cur
  · simp [hlast, ← hl]
  · have hlt : i < bs.length := by omega
    obtain ⟨-, -, hread⟩ := readCell_eq_next.1 (h i hlt)
    rw [if_neg hlast, hread, List.getElem_append_left hlt]

/-! ## The obligations -/

/-- Settles O20: FIN.M hands STEP a buffer that holds the completed frame; after any other micro-operation STEP has no Measurement
frame to publish. -/
theorem feedPublishesExactlyTheValidMeasurementFrames :
    Obligations.FeedPublishesExactlyTheValidMeasurementFrames := by
  intro b s t bs r hinv hl hholds h hr x
  obtain ⟨u, m, e, hu, hm, ht⟩ := execFeed_eq_next.1 h
  by_cases hfin : u = .finM
  · subst hfin
    obtain ⟨-, hcap, hlast⟩ := selectedWhen_of_select hu
    have hstored := microOp_of_stores (u := .finM) (b := b) (s := s) rfl hcap
    obtain ⟨rfl, rfl⟩ := Prod.mk.inj (Host.Outcome.next.inj (hstored.symm.trans hm))
    have hlen : (bs ++ [b]).length = s.cfg.lenMeas := by simp [hl, hlast]
    have hpub := execStep_published_of_measurement (s := s.stored _ s.cur b) hlen (hlen.trans hinv.layout).ge
      (stored_holds _ b hl hcap hholds) ht hr
    rw [stored_cfg] at hpub
    simp [hpub, hu, eq_comm]
  · have he : e ≠ .frameReady .measurement := by
      obtain ⟨rfl, -⟩ := microOp_eq_next.1 hm
      exact mt microEvent_eq_measurement.1 hfin
    simp [execStep_published_of_ne_measurement he ht hr, hu, hfin]

/-- Settles O52: the bytes are a frame but for the checksum, so STEP on it counts it. -/
theorem wrongChecksumPublishesNothing : Obligations.WrongChecksumPublishesNothing := by
  intro s r hw hlen hst hhdr hmark hcrc
  have h47 := recordBytes_length r
  have hframe : IsFrame s.cfg .measurement r.toBytes := ⟨h47.trans hlen.symm, hhdr, hmark⟩
  have hfeed := feedAll_invalid hw hst h47 hframe (mt validBytes_recordBytes.1 hcrc)
  have hstands := frameStands_of_feedAll hw hst h47 hframe hfeed
  exact ⟨_, hfeed, hstands.st, hstands.cur.trans h47, hstands.holds, h47 ▸ hstands.others, rfl, rfl, rfl, rfl, rfl, rfl⟩

end Sys2Proof.Machine
end

section
/-! Proofs: what an error changes, what each context's operations write, and what the input strobes perform (`60_exceptions.md` R201
to R213). -/

namespace Sys2Proof.Machine

/-! ## Errors -/

/-- Settles O58: the effect of each cause, one law of `raise` per clause. -/
theorem errorsChangeAtMostStateAndCounter : Obligations.ErrorsChangeAtMostStateAndCounter := fun s =>
  ⟨raise_headerMismatch s, raise_unrecognizedKind s, raise_overflow s, fun k => raise_checksumMismatch k s,
    raise_transport s⟩

/-- Settles O22: VALIDATE answers false on the bytes in the buffer, and the mismatch taken only counts. -/
theorem checksumMismatchOnlyCounts : Obligations.ChecksumMismatchOnlyCounts := by
  intro s k bs hl hn hholds hv
  rw [exec_step, execStep_invalid hl hn hholds hv, raise_checksumMismatch]
  rfl

/-! ## The contexts -/

/-- What a producer's operation may not write: the configuration, the handler and the pending operations are as in `s`. -/
def ProducerKeeps (s t : State) : Prop := t.cfg = s.cfg ∧ t.handler = s.handler ∧ t.inp = s.inp

theorem ProducerKeeps.trans {s m t : State} (hm : ProducerKeeps s m) (ht : ProducerKeeps m t) : ProducerKeeps s t := by
  obtain ⟨mcfg, mhandler, minp⟩ := hm
  obtain ⟨tcfg, thandler, tinp⟩ := ht
  exact ⟨tcfg.trans mcfg, thandler.trans mhandler, tinp.trans minp⟩

theorem execFeed_producerKeeps {b : Byte} {s t : State} (h : execFeed b s = .next t) : ProducerKeeps s t := by
  obtain ⟨hcfg, hhandler, hinp, -⟩ := feedFrame b s t h
  exact ⟨hcfg, hhandler, hinp⟩

theorem feedAll_producerKeeps {bs : List Byte} {s t : State} (h : feedAll bs s = .next t) : ProducerKeeps s t :=
  feedAll_keeps (P := ProducerKeeps s) (fun _ _ _ hm ht => hm.trans (execFeed_producerKeeps ht)) ⟨rfl, rfl, rfl⟩ h

/-- Settles O49: the producer's FEEDs by their frame; the operations of the consumer and the host by their definitions. -/
theorem contextsWriteOnlyTheirState : Obligations.ContextsWriteOnlyTheirState := by
  intro o s t h
  cases o with
  | feed b =>
    obtain ⟨hcfg, hhandler, hinp⟩ := execFeed_producerKeeps h
    exact ⟨hcfg, hinp, nofun, fun _ => hhandler, nofun⟩
  | feeds bs =>
    obtain ⟨hcfg, hhandler, hinp⟩ := feedAll_producerKeeps h
    exact ⟨hcfg, hinp, nofun, fun _ => hhandler, nofun⟩
  | latest => cases h; exact ⟨rfl, rfl, fun _ => ⟨_, rfl⟩, nofun, nofun⟩
  | reset | register hd => cases h; exact ⟨rfl, rfl, nofun, nofun, fun _ => rfl⟩

/-! ## The input strobes -/

/-- Settles O59: `InPorts.op` looks at `rst` first; with one strobe or none it passes the clash test. -/
theorem resetStrobeWins : Obligations.ResetStrobeWins := by
  intro p
  refine ⟨fun hrst => ?reset, fun hrst hvalid hset => ?feed, fun hrst hvalid hset => ?register,
    fun hrst hvalid hset => ?idle⟩
  case reset => simp [InPorts.op, hrst]
  case feed => simp [InPorts.op, hrst, hvalid, hset]
  case register => simp [InPorts.op, hrst, hvalid, hset]
  case idle => simp [InPorts.op, hrst, hvalid, hset]

end Sys2Proof.Machine
end

section
/-! Proofs: what RESET sets, and that a stray header byte swallows the frame behind it (`70_reset_and_hazards.md` R230, R236). -/

namespace Sys2Proof.Machine

/-! ## A header byte before a frame -/

/-- From AwaitHeader, HEADER and a byte that is no marker lead back to AwaitHeader with both bytes stored (`40_frame_sync.md` R112,
R117). -/
theorem feedAll_abandoned {s : State} {b : Byte} (hw : s.cfg.wf) (hst : s.st = .awaitHeader)
    (hb : classify s.cfg b = .unrecognized) :
    feedAll [s.cfg.header, b] s = .next (s.framed .awaitHeader [s.cfg.header, b] 2) := by
  obtain ⟨-, -, hcap⟩ := hw
  have hsync : execFeed s.cfg.header s = .next (s.framed .awaitKind [s.cfg.header] 1) := by
    rw [execFeed_of (u := .sync) (select_of_selectedWhen ⟨hst, rfl⟩) (microOp_of_stores rfl (by omega))]
    rfl
  have habandon : execFeed b (s.framed .awaitKind [s.cfg.header] 1) =
      .next (s.framed .awaitHeader [s.cfg.header, b] 2) :=
    execFeed_framed (u := .abandon) (select_of_selectedWhen ⟨rfl, classify_eq_unrecognized.1 hb⟩) rfl
      (show 1 < s.cfg.cap by omega) rfl
  rw [feedAll_cons, hsync, andThen_next, feedAll_singleton, habandon]

/-- Settles O56: the stray byte takes the frame's own header as its kind byte, which is abandoned and not looked at again; the
other 46 bytes are then garbage without a header. -/
theorem strayHeaderSwallowsTheNextFrame : Obligations.StrayHeaderSwallowsTheNextFrame := by
  intro s r hw hst hhdr hmark htail
  have hbytes : s.cfg.header :: r.toBytes = [s.cfg.header, s.cfg.header] ++ r.toBytes.tail := by
    rw [← hhdr]
    rfl
  have hstray : feedAll (s.cfg.header :: r.toBytes) s =
      feedAll r.toBytes.tail (s.framed .awaitHeader [s.cfg.header, s.cfg.header] 2) := by
    rw [hbytes, feedAll_append, feedAll_abandoned hw hst hmark, andThen_next]
  have hskip := garbageWithoutHeaderIsSkipped (s.framed .awaitHeader [s.cfg.header, s.cfg.header] 2) r.toBytes.tail
    rfl htail
  have h46 : r.toBytes.tail.length = 46 := by simp
  rw [h46] at hskip
  exact ⟨_, hstray.trans hskip, rfl, rfl, rfl, rfl, rfl, rfl⟩

/-! ## RESET -/

/-- With the cursor at 0 no cell of the buffer can be read (`93_implementation_defined.md` U7). -/
theorem readCell_ne_next_of_cur_zero {s : State} (h : s.cur = 0) (a : Nat) (v : Byte) : readCell s a ≠ .next v := by
  intro hread
  obtain ⟨-, hlt, -⟩ := readCell_eq_next.1 hread
  omega

/-- Settles O2: by the definition of RESET; it leaves the cells of the buffer, and none is below the cursor. -/
theorem resetSetsAllButTheBuffer : Obligations.ResetSetsAllButTheBuffer := fun _ =>
  ⟨_, rfl, rfl, rfl, rfl, rfl, rfl, rfl, rfl, rfl, rfl, readCell_ne_next_of_cur_zero rfl⟩

end Sys2Proof.Machine
end

section
/-! Proofs: what the words of `opcode_table.json` decode to (`30_encoding.md` R97). -/

namespace Sys2Proof.Machine

/-! ## Words of one byte -/

theorem decodeTableWordIn_eight {c : Config} {w : Nat} {b : Byte} (hword : BitVec.ofNat 8 w = b) :
    decodeTableWordIn c 8 w = some (decodeLoneByte c b) := by
  rw [decodeTableWordIn, if_pos rfl, hword]

theorem decodeLoneByte_header (c : Config) : decodeLoneByte c c.header = .sync c.header := if_pos rfl

/-- A marker is the row that starts its kind, unless it is HEADER too (`93_implementation_defined.md` U11). -/
theorem decodeLoneByte_markerOf {c : Config} (hw : c.wf) {k : Kind} (hne : c.markerOf k ≠ c.header) :
    decodeLoneByte c (c.markerOf k) = (startOf k).instr (c.markerOf k) := by
  rw [decodeLoneByte, if_neg hne, classify_markerOf hw k]
  cases k <;> rfl

/-! ## Words of two bytes -/

theorem decodeTableWordIn_sixteen {c : Config} {w : Nat} {i : Instr} {rest : List Byte}
    (h : decodeFrame c (tableBytes 16 w ++ List.replicate formatMBytes 0) = .ok (i, rest)) :
    decodeTableWordIn c 16 w = some i := by
  rw [decodeTableWordIn, if_neg (by decide), if_pos (by decide), h]

/-- The word of HEADER and the marker of a kind is that kind's frame, all further bytes 0. -/
theorem encode_decodeTableWordIn_frame {c : Config} {k : Kind} {w : Nat} (hw : c.wf) (hlen : c.lenOf k = formatBytes k)
    (hword : tableBytes 16 w = [c.header, c.markerOf k]) :
    (decodeTableWordIn c 16 w).bind encode =
      some ([c.header, c.markerOf k] ++ List.replicate (formatBytes k - 2) 0) := by
  have hfits : formatBytes k ≤ ([c.header, c.markerOf k] ++ List.replicate formatMBytes 0).length := by
    cases k <;> simp [formatBytes, formatMBytes, formatSBytes]
  have hframe := decodeFrame_eq_ok.2 ⟨rfl, k, classify_markerOf hw k, hlen, hfits, rfl⟩
  rw [← hword] at hframe
  rw [decodeTableWordIn_sixteen hframe, Option.bind_some, encode_frameOf, hword, map_byteAt_range_take hfits]
  cases k <;> rfl

/-! ## The obligation -/

/-- Settles O38: under the default configuration each 8-bit word is HEADER or a marker, and each 16-bit word HEADER and a
marker. -/
theorem tableWordsDecodeToTheirRows : Obligations.TableWordsDecodeToTheirRows := by
  have hw : Config.default.wf := by decide
  have hmarker (k : Kind) {w : Nat} (hword : BitVec.ofNat 8 w = Config.default.markerOf k) :
      decodeTableWord 8 w = some ((startOf k).instr (Config.default.markerOf k)) := by
    rw [decodeTableWord, decodeTableWordIn_eight hword, decodeLoneByte_markerOf hw (by cases k <;> decide)]
  refine ⟨?header, hmarker .measurement rfl, hmarker .health rfl, hmarker .manufacturerInfo rfl, ?frameM, ?frameH, ?frameI⟩
  case header => exact (decodeTableWordIn_eight rfl).trans (congrArg some (decodeLoneByte_header .default))
  case frameM => exact encode_decodeTableWordIn_frame (k := .measurement) hw rfl (by decide)
  case frameH => exact encode_decodeTableWordIn_frame (k := .health) hw rfl (by decide)
  case frameI => exact encode_decodeTableWordIn_frame (k := .manufacturerInfo) hw rfl (by decide)

end Sys2Proof.Machine
end
